-- ==== Sys2Proof/Word.lean ====
section
/-! DEFINITION. The words of the machine: 32-bit words, bytes, register numbers and CSR numbers (spec/00_scope.md R9). -/

namespace Sys2Proof

/-- XLEN = 32 (R9): general registers, pc, CSRs, addresses and instructions. -/
abbrev Word := BitVec 32

/-- One byte of memory or of a UART stream. -/
abbrev Byte := BitVec 8

/-- The number of a general register: a 5-bit rd, rs1 or rs2 field (R132). -/
abbrev RegNum := BitVec 5

/-- The number of a CSR: the 12-bit field `w[31:20]` (R141, R390). -/
abbrev CsrNum := BitVec 12

end Sys2Proof
end

