-- ==== Sys2Proof/Machine/Memory.lean ====
section
/-! DEFINITION. RAM as a list of cells in one canonical form, its byte read and write, and the little-endian accesses of any width
(spec/20_memory.md R90 to R93). A cell's address is absolute. -/

namespace Sys2Proof.Machine

/-- The cells of RAM that differ from `unlistedByte`, by rising address. -/
abbrev Memory := List Host.Cell

/-- What an unlisted address reads as. DESIGN CHOICE (log entry 2), unsafe: the spec leaves the bytes that nothing has written
unspecified (D27); the model gives them 0. -/
def unlistedByte : Byte := 0

/-- The canonical form: addresses strictly rising, and no cell equal to what an unlisted address reads as. -/
abbrev Memory.wf (m : Memory) : Prop :=
  m.Pairwise (fun c d => c.1 < d.1) ∧ ∀ c ∈ m, c.2 ≠ unlistedByte

/-- The byte at an address. -/
def memByte : Memory → Nat → Byte
  | [], _ => unlistedByte
  | (k, b) :: m, a => if k = a then b else memByte m a

/-- Remove the cell of an address. -/
def memErase (m : Memory) (a : Nat) : Memory := m.filter (fun c => c.1 != a)

/-- Put a cell in its place. -/
def memInsert : Memory → Nat → Byte → Memory
  | [], a, b => [(a, b)]
  | (k, c) :: m, a, b =>
    if a < k then (a, b) :: (k, c) :: m
    else if a = k then (a, b) :: m
    else (k, c) :: memInsert m a b

/-- Write one byte, keeping the canonical form. -/
def memSet (m : Memory) (a : Nat) (b : Byte) : Memory :=
  if b = unlistedByte then memErase m a else memInsert m a b

/-- R91: `n` bytes from `a` as a number, the byte at the lowest address least significant. -/
def ramRead (m : Memory) (a : Nat) : Nat → Nat
  | 0 => 0
  | n + 1 => (memByte m a).toNat + 256 * ramRead m (a + 1) n

/-- R92: the low `n` bytes of the number `v` from `a` on, the lowest byte first. -/
def ramWrite (m : Memory) (a : Nat) : Nat → Nat → Memory
  | 0, _ => m
  | n + 1, v => ramWrite (memSet m a (BitVec.ofNat 8 v)) (a + 1) n (v / 256)

end Sys2Proof.Machine
end

