-- ==== Sys2Proof/Config.lean ====
section
/-! DEFINITION. The parameters of the core (spec/00_scope.md R10 to R15, spec/10_state.md R62): what is fixed when the core is
built and never changes. The model takes them as a value, `Config`, which State carries and no step changes; the default values
are in Sys2Proof/Machine/Platform.lean. -/

namespace Sys2Proof

/-- An extension identifier of the parameter EXTENSIONS (R10); `unknown` is any other character, which the dispatcher skips (R151). -/
inductive Ext where
  | i
  | m
  | a
  | z
  | unknown (character : Char)
deriving DecidableEq, Repr

/-- The comparison TIMER_CMP of `time` with `timecmp` (R13, D17): the default and the two alternatives a model may take. -/
inductive TimerCmp where
  /-- the default: the unsigned 64-bit `time >= timecmp` -/
  | unsigned64
  /-- alternative (a): `timel >= timecmpl and timeh >= timecmph` -/
  | componentwise
  /-- alternative (b): `(timeh, timel) >= (timecmph, timecmpl)` -/
  | lexicographic
deriving DecidableEq, Repr

/-- The CSRs that have a number (R36, R390). `extraflags` has none (R50). -/
inductive Csr where
  | mstatus
  | mie
  | mtvec
  | mscratch
  | mepc
  | mcause
  | mtval
  | mip
  | timecmpl
  | timecmph
  | cyclel
  | timel
  | cycleh
  | timeh
  | mvendorid
  | marchid
  | mimpid
  | mhartid
deriving DecidableEq, Repr

/-- The configuration of one core: R10 (EXTENSIONS), R11 (address map), 93_implementation_defined.md Part 1 row 11 (UART layout),
R12 (identity), R13 (TIMER_CMP), R15 (CSR_MAP). -/
structure Config where
  extensions : List Ext
  dramBase : Word
  /-- bytes of RAM -/
  dramSize : Nat
  uartBase : Word
  /-- bytes of the UART window -/
  uartSize : Nat
  /-- offset of the receive and transmit register in the UART window (R110) -/
  uartData : Nat
  /-- offset of the status register in the UART window (R110) -/
  uartStatus : Nat
  /-- the fixed pattern of the status register (R113) -/
  uartPattern : Byte
  mvendorid : Word
  marchid : Word
  mimpid : Word
  mhartid : Word
  timerCmp : TimerCmp
  /-- the CSR that each assigned number selects -/
  csrMap : List (CsrNum × Csr)
deriving DecidableEq, Repr

/-- The constraints of R11: at least one byte of RAM, RAM below 2^32, and the UART window disjoint from RAM. Another configuration is
refused (93_implementation_defined.md Part 1 row 12). DESIGN CHOICE (log entry 13): R11 and 20_memory.md R81 give UART_SIZE no lower bound,
and the model admits a window of 0 bytes at any base, inside RAM too: it holds no address, so it overlaps nothing. -/
abbrev Config.Valid (c : Config) : Prop :=
  1 ≤ c.dramSize ∧ c.dramBase.toNat + c.dramSize ≤ 2 ^ 32 ∧
    (c.uartSize = 0 ∨ c.uartBase.toNat + c.uartSize ≤ c.dramBase.toNat ∨ c.dramBase.toNat + c.dramSize ≤ c.uartBase.toNat)

end Sys2Proof
end

