-- ==== Sys2Proof/Syntax.lean ====
section
/-! DEFINITION. The instructions: one constructor for each of the 67 rows of spec/opcode_table.json, with the operands of the row's
rule. An immediate keeps the width its rule gives it; a branch or jump offset is the signed even byte offset (R250, R255). -/

namespace Sys2Proof

inductive Instr where
  /- 41_i_integer.md: upper immediates; `imm` is `w[31:12]` -/
  | lui (rd : RegNum) (imm : BitVec 20)
  | auipc (rd : RegNum) (imm : BitVec 20)
  /- 42_i_control.md -/
  | jal (rd : RegNum) (off : BitVec 21)
  | jalr (rd rs1 : RegNum) (imm : BitVec 12)
  | beq (rs1 rs2 : RegNum) (off : BitVec 13)
  | bne (rs1 rs2 : RegNum) (off : BitVec 13)
  | blt (rs1 rs2 : RegNum) (off : BitVec 13)
  | bge (rs1 rs2 : RegNum) (off : BitVec 13)
  | bltu (rs1 rs2 : RegNum) (off : BitVec 13)
  | bgeu (rs1 rs2 : RegNum) (off : BitVec 13)
  /- 43_i_memory.md: loads and stores -/
  | lb (rd rs1 : RegNum) (imm : BitVec 12)
  | lh (rd rs1 : RegNum) (imm : BitVec 12)
  | lw (rd rs1 : RegNum) (imm : BitVec 12)
  | lbu (rd rs1 : RegNum) (imm : BitVec 12)
  | lhu (rd rs1 : RegNum) (imm : BitVec 12)
  | sb (rs2 rs1 : RegNum) (imm : BitVec 12)
  | sh (rs2 rs1 : RegNum) (imm : BitVec 12)
  | sw (rs2 rs1 : RegNum) (imm : BitVec 12)
  /- 41_i_integer.md: register-immediate -/
  | addi (rd rs1 : RegNum) (imm : BitVec 12)
  | slti (rd rs1 : RegNum) (imm : BitVec 12)
  | sltiu (rd rs1 : RegNum) (imm : BitVec 12)
  | xori (rd rs1 : RegNum) (imm : BitVec 12)
  | ori (rd rs1 : RegNum) (imm : BitVec 12)
  | andi (rd rs1 : RegNum) (imm : BitVec 12)
  | slli (rd rs1 : RegNum) (shamt : BitVec 5)
  | srli (rd rs1 : RegNum) (shamt : BitVec 5)
  | srai (rd rs1 : RegNum) (shamt : BitVec 5)
  /- 41_i_integer.md: register-register -/
  | add (rd rs1 rs2 : RegNum)
  | sub (rd rs1 rs2 : RegNum)
  | sll (rd rs1 rs2 : RegNum)
  | slt (rd rs1 rs2 : RegNum)
  | sltu (rd rs1 rs2 : RegNum)
  | xor (rd rs1 rs2 : RegNum)
  | srl (rd rs1 rs2 : RegNum)
  | sra (rd rs1 rs2 : RegNum)
  | or (rd rs1 rs2 : RegNum)
  | and (rd rs1 rs2 : RegNum)
  /- 43_i_memory.md R290 -/
  | fence (fm pred succ : BitVec 4) (rs1 rd : RegNum)
  /- 44_i_system.md -/
  | ecall
  | ebreak
  /- 45_m_extension.md -/
  | mul (rd rs1 rs2 : RegNum)
  | mulh (rd rs1 rs2 : RegNum)
  | mulhsu (rd rs1 rs2 : RegNum)
  | mulhu (rd rs1 rs2 : RegNum)
  | div (rd rs1 rs2 : RegNum)
  | divu (rd rs1 rs2 : RegNum)
  | rem (rd rs1 rs2 : RegNum)
  | remu (rd rs1 rs2 : RegNum)
  /- 46_a_extension.md -/
  | lrw (rd rs1 : RegNum) (aq rl : Bool)
  | scw (rd rs1 rs2 : RegNum) (aq rl : Bool)
  | amoswapw (rd rs1 rs2 : RegNum) (aq rl : Bool)
  | amoaddw (rd rs1 rs2 : RegNum) (aq rl : Bool)
  | amoxorw (rd rs1 rs2 : RegNum) (aq rl : Bool)
  | amoandw (rd rs1 rs2 : RegNum) (aq rl : Bool)
  | amoorw (rd rs1 rs2 : RegNum) (aq rl : Bool)
  | amominw (rd rs1 rs2 : RegNum) (aq rl : Bool)
  | amomaxw (rd rs1 rs2 : RegNum) (aq rl : Bool)
  | amominuw (rd rs1 rs2 : RegNum) (aq rl : Bool)
  | amomaxuw (rd rs1 rs2 : RegNum) (aq rl : Bool)
  /- 47_zicsr_system.md -/
  | csrrw (rd : RegNum) (csr : CsrNum) (rs1 : RegNum)
  | csrrs (rd : RegNum) (csr : CsrNum) (rs1 : RegNum)
  | csrrc (rd : RegNum) (csr : CsrNum) (rs1 : RegNum)
  | csrrwi (rd : RegNum) (csr : CsrNum) (uimm : BitVec 5)
  | csrrsi (rd : RegNum) (csr : CsrNum) (uimm : BitVec 5)
  | csrrci (rd : RegNum) (csr : CsrNum) (uimm : BitVec 5)
  | mret
  | wfi
deriving DecidableEq, Repr

end Sys2Proof
end

