-- ==== Sys2Proof/WellFormed.lean ====
section
/-! DEFINITION. Which terms of `Instr` are instructions. Every operand has the width of its field, so the one thing left to check is
that a branch or jump offset is even: bit 0 of immB and immJ is 0 and no word encodes another (spec/30_encoding.md R140). -/

namespace Sys2Proof

/-- A B-format or J-format offset is even (R140). -/
def evenOffset {n : Nat} (off : BitVec n) : Bool := !off.getLsbD 0

def Instr.wellFormed : Instr → Bool
  | .jal _ off => evenOffset off
  | .beq _ _ off => evenOffset off
  | .bne _ _ off => evenOffset off
  | .blt _ _ off => evenOffset off
  | .bge _ _ off => evenOffset off
  | .bltu _ _ off => evenOffset off
  | .bgeu _ _ off => evenOffset off
  | .lui .. | .auipc .. | .jalr .. => true
  | .lb .. | .lh .. | .lw .. | .lbu .. | .lhu .. | .sb .. | .sh .. | .sw .. => true
  | .addi .. | .slti .. | .sltiu .. | .xori .. | .ori .. | .andi .. | .slli .. | .srli .. | .srai .. => true
  | .add .. | .sub .. | .sll .. | .slt .. | .sltu .. | .xor .. | .srl .. | .sra .. | .or .. | .and .. => true
  | .fence .. | .ecall | .ebreak => true
  | .mul .. | .mulh .. | .mulhsu .. | .mulhu .. | .div .. | .divu .. | .rem .. | .remu .. => true
  | .lrw .. | .scw .. | .amoswapw .. | .amoaddw .. | .amoxorw .. | .amoandw .. | .amoorw .. => true
  | .amominw .. | .amomaxw .. | .amominuw .. | .amomaxuw .. => true
  | .csrrw .. | .csrrs .. | .csrrc .. | .csrrwi .. | .csrrsi .. | .csrrci .. | .mret | .wfi => true

end Sys2Proof
end

