-- ==== Sys2Proof/Decode.lean ====
section
/-! DEFINITION. The instruction word: formats and immediates (spec/30_encoding.md R132 to R141), template matching (R145), the
ordered variants of the four extensions (R153), the dispatcher's search (R150 to R152), the decoder on bytes (R130), and the encoder
written from the same tables. -/

namespace Sys2Proof

/-! ### Fields and immediates (R132 to R141) -/

/-- The field of `len` bits whose lowest bit is bit `lo` of `w`: the spec's `w[lo+len-1:lo]` (R16). -/
def bits (w : Word) (lo len : Nat) : BitVec len := w.extractLsb' lo len

def opcodeOf (w : Word) : BitVec 7 := bits w 0 7
def rdOf (w : Word) : RegNum := bits w 7 5
def funct3Of (w : Word) : BitVec 3 := bits w 12 3
def rs1Of (w : Word) : RegNum := bits w 15 5
def rs2Of (w : Word) : RegNum := bits w 20 5
def funct7Of (w : Word) : BitVec 7 := bits w 25 7

/-- R134: `imm[11:0]` is `w[31:20]`. -/
def immIOf (w : Word) : BitVec 12 := bits w 20 12

/-- R135: `imm[11:5]` is `w[31:25]`, `imm[4:0]` is `w[11:7]`. -/
def immSOf (w : Word) : BitVec 12 := bits w 25 7 ++ bits w 7 5

/-- R136, R140: `w[31] ++ w[7] ++ w[30:25] ++ w[11:8] ++ 0`. -/
def immBOf (w : Word) : BitVec 13 := bits w 31 1 ++ bits w 7 1 ++ bits w 25 6 ++ bits w 8 4 ++ 0#1

/-- R137: `imm[31:12]` is `w[31:12]`. -/
def immUOf (w : Word) : BitVec 20 := bits w 12 20

/-- R138, R140: `w[31] ++ w[19:12] ++ w[20] ++ w[30:21] ++ 0`. -/
def immJOf (w : Word) : BitVec 21 := bits w 31 1 ++ bits w 12 8 ++ bits w 20 1 ++ bits w 21 10 ++ 0#1

/-- R141: the shift amount is the rs2 field. -/
def shamtOf (w : Word) : BitVec 5 := bits w 20 5

/-- R141: the CSR number is `w[31:20]`. -/
def csrOf (w : Word) : CsrNum := bits w 20 12

/-- R141: the CSR immediate is the rs1 field. -/
def uimmOf (w : Word) : BitVec 5 := bits w 15 5

/-- R141: `aq = w[26]`, `rl = w[25]`. -/
def aqOf (w : Word) : Bool := w.getLsbD 26
def rlOf (w : Word) : Bool := w.getLsbD 25

/-! ### Templates (R145) -/

/-- One character of a template: a literal, or a don't-care. -/
inductive PatternBit where
  | zero
  | one
  | any
deriving DecidableEq, Repr

/-- A template as the matcher uses it (R145): `(word & mask) == value`. -/
structure Template where
  mask : Word
  value : Word
deriving DecidableEq, Repr

/-- R145: the mask has a 1 at every literal position; character 0 of the pattern is its highest bit. -/
def patternMask : List PatternBit → Word
  | [] => 0
  | .any :: p => patternMask p
  | .zero :: p => BitVec.twoPow 32 p.length ||| patternMask p
  | .one :: p => BitVec.twoPow 32 p.length ||| patternMask p

/-- R145: the value holds the literal bits. -/
def patternValue : List PatternBit → Word
  | [] => 0
  | .any :: p => patternValue p
  | .zero :: p => patternValue p
  | .one :: p => BitVec.twoPow 32 p.length ||| patternValue p

/-- The template of a pattern written bit 31 first (R145). -/
def Template.ofPattern (p : List PatternBit) : Template := ⟨patternMask p, patternValue p⟩

/-- R145: a word matches iff every literal position agrees. -/
def Template.matches (t : Template) (w : Word) : Bool := w &&& t.mask == t.value

/-! ### What a matched variant reads from the word (R153 to R155)

Each `read…` answers the instruction, or none where the variant does not know the word's funct3 and funct7 (R154). -/

/-- One entry of an extension's ordered instruction list. -/
structure Variant where
  template : Template
  read : Word → Option Instr

/-- BRANCH, a catch-all (R255). -/
def readBranch (w : Word) : Option Instr :=
  match (funct3Of w).toNat with
  | 0 => some (.beq (rs1Of w) (rs2Of w) (immBOf w))
  | 1 => some (.bne (rs1Of w) (rs2Of w) (immBOf w))
  | 4 => some (.blt (rs1Of w) (rs2Of w) (immBOf w))
  | 5 => some (.bge (rs1Of w) (rs2Of w) (immBOf w))
  | 6 => some (.bltu (rs1Of w) (rs2Of w) (immBOf w))
  | 7 => some (.bgeu (rs1Of w) (rs2Of w) (immBOf w))
  | _ => none

/-- LOAD, a catch-all (R280). -/
def readLoad (w : Word) : Option Instr :=
  match (funct3Of w).toNat with
  | 0 => some (.lb (rdOf w) (rs1Of w) (immIOf w))
  | 1 => some (.lh (rdOf w) (rs1Of w) (immIOf w))
  | 2 => some (.lw (rdOf w) (rs1Of w) (immIOf w))
  | 4 => some (.lbu (rdOf w) (rs1Of w) (immIOf w))
  | 5 => some (.lhu (rdOf w) (rs1Of w) (immIOf w))
  | _ => none

/-- STORE, a catch-all (R286). -/
def readStore (w : Word) : Option Instr :=
  match (funct3Of w).toNat with
  | 0 => some (.sb (rs2Of w) (rs1Of w) (immSOf w))
  | 1 => some (.sh (rs2Of w) (rs1Of w) (immSOf w))
  | 2 => some (.sw (rs2Of w) (rs1Of w) (immSOf w))
  | _ => none

/-- SHIFTI, a catch-all reached with funct3 001 or 101 (R215). -/
def readShiftImm (w : Word) : Option Instr :=
  if funct3Of w = 0b001#3 then
    if funct7Of w = 0b0000000#7 then some (.slli (rdOf w) (rs1Of w) (shamtOf w)) else none
  else
    if funct7Of w = 0b0000000#7 then some (.srli (rdOf w) (rs1Of w) (shamtOf w))
    else if funct7Of w = 0b0100000#7 then some (.srai (rdOf w) (rs1Of w) (shamtOf w)) else none

/-- IMM (R205); funct3 001 and 101 never reach it, because SHIFTI stands before it. -/
def readImm (w : Word) : Option Instr :=
  match (funct3Of w).toNat with
  | 0 => some (.addi (rdOf w) (rs1Of w) (immIOf w))
  | 2 => some (.slti (rdOf w) (rs1Of w) (immIOf w))
  | 3 => some (.sltiu (rdOf w) (rs1Of w) (immIOf w))
  | 4 => some (.xori (rdOf w) (rs1Of w) (immIOf w))
  | 6 => some (.ori (rdOf w) (rs1Of w) (immIOf w))
  | 7 => some (.andi (rdOf w) (rs1Of w) (immIOf w))
  | _ => none

/-- OP, a catch-all reached with funct7 0000000 or 0100000 (R220, R231). -/
def readOp (w : Word) : Option Instr :=
  if funct7Of w = 0b0000000#7 then
    match (funct3Of w).toNat with
    | 0 => some (.add (rdOf w) (rs1Of w) (rs2Of w))
    | 1 => some (.sll (rdOf w) (rs1Of w) (rs2Of w))
    | 2 => some (.slt (rdOf w) (rs1Of w) (rs2Of w))
    | 3 => some (.sltu (rdOf w) (rs1Of w) (rs2Of w))
    | 4 => some (.xor (rdOf w) (rs1Of w) (rs2Of w))
    | 5 => some (.srl (rdOf w) (rs1Of w) (rs2Of w))
    | 6 => some (.or (rdOf w) (rs1Of w) (rs2Of w))
    | 7 => some (.and (rdOf w) (rs1Of w) (rs2Of w))
    | _ => none
  else
    match (funct3Of w).toNat with
    | 0 => some (.sub (rdOf w) (rs1Of w) (rs2Of w))
    | 5 => some (.sra (rdOf w) (rs1Of w) (rs2Of w))
    | _ => none

/-- FENCE with all its fields (R141, R290). -/
def readFence (w : Word) : Option Instr :=
  some (.fence (bits w 28 4) (bits w 24 4) (bits w 20 4) (rs1Of w) (rdOf w))

/-- The operands rd, rs1, rs2 of an R-format instruction. -/
def readR (f : RegNum → RegNum → RegNum → Instr) (w : Word) : Option Instr :=
  some (f (rdOf w) (rs1Of w) (rs2Of w))

/-- The operands of SC.W and the AMOs (R141, R355). -/
def readAmo (f : RegNum → RegNum → RegNum → Bool → Bool → Instr) (w : Word) : Option Instr :=
  some (f (rdOf w) (rs1Of w) (rs2Of w) (aqOf w) (rlOf w))

/-- The operands of a CSR instruction; the last is rs1 or uimm, the same field (R141). -/
def readCsrOperands (f : RegNum → CsrNum → BitVec 5 → Instr) (w : Word) : Option Instr :=
  some (f (rdOf w) (csrOf w) (rs1Of w))

/-! ### The ordered variant lists (R153) -/

def variantsI : List Variant :=
  [⟨⟨0x0000007F, 0x00000037⟩, fun w => some (.lui (rdOf w) (immUOf w))⟩,
   ⟨⟨0x0000007F, 0x00000017⟩, fun w => some (.auipc (rdOf w) (immUOf w))⟩,
   ⟨⟨0x0000007F, 0x0000006F⟩, fun w => some (.jal (rdOf w) (immJOf w))⟩,
   ⟨⟨0x0000707F, 0x00000067⟩, fun w => some (.jalr (rdOf w) (rs1Of w) (immIOf w))⟩,
   ⟨⟨0x0000007F, 0x00000063⟩, readBranch⟩,
   ⟨⟨0x0000007F, 0x00000003⟩, readLoad⟩,
   ⟨⟨0x0000007F, 0x00000023⟩, readStore⟩,
   ⟨⟨0x0000307F, 0x00001013⟩, readShiftImm⟩,
   ⟨⟨0x0000007F, 0x00000013⟩, readImm⟩,
   ⟨⟨0xBE00007F, 0x00000033⟩, readOp⟩,
   ⟨⟨0x0000707F, 0x0000000F⟩, readFence⟩,
   ⟨⟨0xFFFFFFFF, 0x00000073⟩, fun _ => some .ecall⟩,
   ⟨⟨0xFFFFFFFF, 0x00100073⟩, fun _ => some .ebreak⟩]

def variantsM : List Variant :=
  [⟨⟨0xFE00707F, 0x02000033⟩, readR .mul⟩,
   ⟨⟨0xFE00707F, 0x02001033⟩, readR .mulh⟩,
   ⟨⟨0xFE00707F, 0x02002033⟩, readR .mulhsu⟩,
   ⟨⟨0xFE00707F, 0x02003033⟩, readR .mulhu⟩,
   ⟨⟨0xFE00707F, 0x02004033⟩, readR .div⟩,
   ⟨⟨0xFE00707F, 0x02005033⟩, readR .divu⟩,
   ⟨⟨0xFE00707F, 0x02006033⟩, readR .rem⟩,
   ⟨⟨0xFE00707F, 0x02007033⟩, readR .remu⟩]

def variantsA : List Variant :=
  [⟨⟨0xF9F0707F, 0x1000202F⟩, fun w => some (.lrw (rdOf w) (rs1Of w) (aqOf w) (rlOf w))⟩,
   ⟨⟨0xF800707F, 0x1800202F⟩, readAmo .scw⟩,
   ⟨⟨0xF800707F, 0x0800202F⟩, readAmo .amoswapw⟩,
   ⟨⟨0xF800707F, 0x0000202F⟩, readAmo .amoaddw⟩,
   ⟨⟨0xF800707F, 0x2000202F⟩, readAmo .amoxorw⟩,
   ⟨⟨0xF800707F, 0x6000202F⟩, readAmo .amoandw⟩,
   ⟨⟨0xF800707F, 0x4000202F⟩, readAmo .amoorw⟩,
   ⟨⟨0xF800707F, 0x8000202F⟩, readAmo .amominw⟩,
   ⟨⟨0xF800707F, 0xA000202F⟩, readAmo .amomaxw⟩,
   ⟨⟨0xF800707F, 0xC000202F⟩, readAmo .amominuw⟩,
   ⟨⟨0xF800707F, 0xE000202F⟩, readAmo .amomaxuw⟩]

def variantsZ : List Variant :=
  [⟨⟨0x0000707F, 0x00001073⟩, readCsrOperands .csrrw⟩,
   ⟨⟨0x0000707F, 0x00002073⟩, readCsrOperands .csrrs⟩,
   ⟨⟨0x0000707F, 0x00003073⟩, readCsrOperands .csrrc⟩,
   ⟨⟨0x0000707F, 0x00005073⟩, readCsrOperands .csrrwi⟩,
   ⟨⟨0x0000707F, 0x00006073⟩, readCsrOperands .csrrsi⟩,
   ⟨⟨0x0000707F, 0x00007073⟩, readCsrOperands .csrrci⟩,
   ⟨⟨0xFFFFFFFF, 0x30200073⟩, fun _ => some .mret⟩,
   ⟨⟨0xFFFFFFFF, 0x10500073⟩, fun _ => some .wfi⟩]

/-- The variants of one extension in declaration order; an unknown one is skipped (R151). -/
def variantsOf : Ext → List Variant
  | .i => variantsI
  | .m => variantsM
  | .a => variantsA
  | .z => variantsZ
  | .unknown _ => []

/-! ### The dispatcher's search and the decoder -/

/-- Why bits are no instruction. -/
inductive Reject where
  /-- no variant of an enabled extension matches: fatal (R152) -/
  | unmatched
  /-- a matched catch-all variant does not know the funct3 and funct7: trap code 3 (R154) -/
  | illegalSubOpcode
  /-- fewer than the four bytes of an instruction (R130); a fetch never gives this -/
  | truncated
deriving DecidableEq, Repr

/-- R150: the variants of the enabled extensions in order, and the first whose template matches decides. -/
def dispatch (exts : List Ext) (w : Word) : Except Reject Instr :=
  match (exts.flatMap variantsOf).find? (fun v => v.template.matches w) with
  | none => .error .unmatched
  | some v =>
    match v.read w with
    | none => .error .illegalSubOpcode
    | some i => .ok i

/-- R130: the instruction word of four bytes, the byte at the lowest address in bits 7:0. -/
def wordOfBytes (b0 b1 b2 b3 : Byte) : Word := b3 ++ b2 ++ b1 ++ b0

/-- The decoder on bytes, lowest address first; bytes after the fourth belong to the next instruction. -/
def decode (exts : List Ext) : List Byte → Except Reject Instr
  | b0 :: b1 :: b2 :: b3 :: _ => dispatch exts (wordOfBytes b0 b1 b2 b3)
  | _ => .error .truncated

/-- The default of the parameter EXTENSIONS (R10, D31). -/
def defaultExtensions : List Ext := [.i, .m, .a, .z]

/-- `n` bytes of the number `v`, lowest first. -/
def leBytes : Nat → Nat → List Byte
  | 0, _ => []
  | n + 1, v => BitVec.ofNat 8 v :: leBytes n (v / 256)

/-- The instruction this decoder reads from a word numbered as spec/opcode_table.json numbers its bits, with the default extensions:
the word's low `nbits` bits laid out as four bytes, lowest first (R130). -/
def decodeTableWord (nbits w : Nat) : Option Instr :=
  match decode defaultExtensions (leBytes 4 (w % 2 ^ nbits)) with
  | .ok i => some i
  | .error _ => none

/-! ### The encoder (R133 to R138) -/

def encodeR (funct7 : BitVec 7) (rs2 rs1 : RegNum) (funct3 : BitVec 3) (rd : RegNum) (opcode : BitVec 7) : Word :=
  funct7 ++ rs2 ++ rs1 ++ funct3 ++ rd ++ opcode

def encodeI (imm : BitVec 12) (rs1 : RegNum) (funct3 : BitVec 3) (rd : RegNum) (opcode : BitVec 7) : Word :=
  imm ++ rs1 ++ funct3 ++ rd ++ opcode

def encodeS (imm : BitVec 12) (rs2 rs1 : RegNum) (funct3 : BitVec 3) (opcode : BitVec 7) : Word :=
  imm.extractLsb' 5 7 ++ rs2 ++ rs1 ++ funct3 ++ imm.extractLsb' 0 5 ++ opcode

def encodeB (off : BitVec 13) (rs2 rs1 : RegNum) (funct3 : BitVec 3) (opcode : BitVec 7) : Word :=
  off.extractLsb' 12 1 ++ off.extractLsb' 5 6 ++ rs2 ++ rs1 ++ funct3 ++ off.extractLsb' 1 4 ++ off.extractLsb' 11 1 ++ opcode

def encodeU (imm : BitVec 20) (rd : RegNum) (opcode : BitVec 7) : Word := imm ++ rd ++ opcode

def encodeJ (off : BitVec 21) (rd : RegNum) (opcode : BitVec 7) : Word :=
  off.extractLsb' 20 1 ++ off.extractLsb' 1 10 ++ off.extractLsb' 11 1 ++ off.extractLsb' 12 8 ++ rd ++ opcode

/-- SC.W, LR.W and the AMOs: funct7 is `funct5 ++ aq ++ rl` (R141). -/
def encodeA (funct5 : BitVec 5) (aq rl : Bool) (rs2 rs1 rd : RegNum) : Word :=
  encodeR (funct5 ++ BitVec.ofBool aq ++ BitVec.ofBool rl) rs2 rs1 0b010#3 rd 0b0101111#7

/-- The word of an instruction (of a well-formed one: bit 0 of a branch or jump offset is not encoded). -/
def encode : Instr → Word
  | .lui rd imm => encodeU imm rd 0b0110111#7
  | .auipc rd imm => encodeU imm rd 0b0010111#7
  | .jal rd off => encodeJ off rd 0b1101111#7
  | .jalr rd rs1 imm => encodeI imm rs1 0b000#3 rd 0b1100111#7
  | .beq rs1 rs2 off => encodeB off rs2 rs1 0b000#3 0b1100011#7
  | .bne rs1 rs2 off => encodeB off rs2 rs1 0b001#3 0b1100011#7
  | .blt rs1 rs2 off => encodeB off rs2 rs1 0b100#3 0b1100011#7
  | .bge rs1 rs2 off => encodeB off rs2 rs1 0b101#3 0b1100011#7
  | .bltu rs1 rs2 off => encodeB off rs2 rs1 0b110#3 0b1100011#7
  | .bgeu rs1 rs2 off => encodeB off rs2 rs1 0b111#3 0b1100011#7
  | .lb rd rs1 imm => encodeI imm rs1 0b000#3 rd 0b0000011#7
  | .lh rd rs1 imm => encodeI imm rs1 0b001#3 rd 0b0000011#7
  | .lw rd rs1 imm => encodeI imm rs1 0b010#3 rd 0b0000011#7
  | .lbu rd rs1 imm => encodeI imm rs1 0b100#3 rd 0b0000011#7
  | .lhu rd rs1 imm => encodeI imm rs1 0b101#3 rd 0b0000011#7
  | .sb rs2 rs1 imm => encodeS imm rs2 rs1 0b000#3 0b0100011#7
  | .sh rs2 rs1 imm => encodeS imm rs2 rs1 0b001#3 0b0100011#7
  | .sw rs2 rs1 imm => encodeS imm rs2 rs1 0b010#3 0b0100011#7
  | .addi rd rs1 imm => encodeI imm rs1 0b000#3 rd 0b0010011#7
  | .slti rd rs1 imm => encodeI imm rs1 0b010#3 rd 0b0010011#7
  | .sltiu rd rs1 imm => encodeI imm rs1 0b011#3 rd 0b0010011#7
  | .xori rd rs1 imm => encodeI imm rs1 0b100#3 rd 0b0010011#7
  | .ori rd rs1 imm => encodeI imm rs1 0b110#3 rd 0b0010011#7
  | .andi rd rs1 imm => encodeI imm rs1 0b111#3 rd 0b0010011#7
  | .slli rd rs1 shamt => encodeR 0b0000000#7 shamt rs1 0b001#3 rd 0b0010011#7
  | .srli rd rs1 shamt => encodeR 0b0000000#7 shamt rs1 0b101#3 rd 0b0010011#7
  | .srai rd rs1 shamt => encodeR 0b0100000#7 shamt rs1 0b101#3 rd 0b0010011#7
  | .add rd rs1 rs2 => encodeR 0b0000000#7 rs2 rs1 0b000#3 rd 0b0110011#7
  | .sub rd rs1 rs2 => encodeR 0b0100000#7 rs2 rs1 0b000#3 rd 0b0110011#7
  | .sll rd rs1 rs2 => encodeR 0b0000000#7 rs2 rs1 0b001#3 rd 0b0110011#7
  | .slt rd rs1 rs2 => encodeR 0b0000000#7 rs2 rs1 0b010#3 rd 0b0110011#7
  | .sltu rd rs1 rs2 => encodeR 0b0000000#7 rs2 rs1 0b011#3 rd 0b0110011#7
  | .xor rd rs1 rs2 => encodeR 0b0000000#7 rs2 rs1 0b100#3 rd 0b0110011#7
  | .srl rd rs1 rs2 => encodeR 0b0000000#7 rs2 rs1 0b101#3 rd 0b0110011#7
  | .sra rd rs1 rs2 => encodeR 0b0100000#7 rs2 rs1 0b101#3 rd 0b0110011#7
  | .or rd rs1 rs2 => encodeR 0b0000000#7 rs2 rs1 0b110#3 rd 0b0110011#7
  | .and rd rs1 rs2 => encodeR 0b0000000#7 rs2 rs1 0b111#3 rd 0b0110011#7
  | .fence fm pred succ rs1 rd => encodeI (fm ++ pred ++ succ) rs1 0b000#3 rd 0b0001111#7
  | .ecall => encodeI 0x000#12 0 0b000#3 0 0b1110011#7
  | .ebreak => encodeI 0x001#12 0 0b000#3 0 0b1110011#7
  | .mul rd rs1 rs2 => encodeR 0b0000001#7 rs2 rs1 0b000#3 rd 0b0110011#7
  | .mulh rd rs1 rs2 => encodeR 0b0000001#7 rs2 rs1 0b001#3 rd 0b0110011#7
  | .mulhsu rd rs1 rs2 => encodeR 0b0000001#7 rs2 rs1 0b010#3 rd 0b0110011#7
  | .mulhu rd rs1 rs2 => encodeR 0b0000001#7 rs2 rs1 0b011#3 rd 0b0110011#7
  | .div rd rs1 rs2 => encodeR 0b0000001#7 rs2 rs1 0b100#3 rd 0b0110011#7
  | .divu rd rs1 rs2 => encodeR 0b0000001#7 rs2 rs1 0b101#3 rd 0b0110011#7
  | .rem rd rs1 rs2 => encodeR 0b0000001#7 rs2 rs1 0b110#3 rd 0b0110011#7
  | .remu rd rs1 rs2 => encodeR 0b0000001#7 rs2 rs1 0b111#3 rd 0b0110011#7
  | .lrw rd rs1 aq rl => encodeA 0b00010#5 aq rl 0 rs1 rd
  | .scw rd rs1 rs2 aq rl => encodeA 0b00011#5 aq rl rs2 rs1 rd
  | .amoswapw rd rs1 rs2 aq rl => encodeA 0b00001#5 aq rl rs2 rs1 rd
  | .amoaddw rd rs1 rs2 aq rl => encodeA 0b00000#5 aq rl rs2 rs1 rd
  | .amoxorw rd rs1 rs2 aq rl => encodeA 0b00100#5 aq rl rs2 rs1 rd
  | .amoandw rd rs1 rs2 aq rl => encodeA 0b01100#5 aq rl rs2 rs1 rd
  | .amoorw rd rs1 rs2 aq rl => encodeA 0b01000#5 aq rl rs2 rs1 rd
  | .amominw rd rs1 rs2 aq rl => encodeA 0b10000#5 aq rl rs2 rs1 rd
  | .amomaxw rd rs1 rs2 aq rl => encodeA 0b10100#5 aq rl rs2 rs1 rd
  | .amominuw rd rs1 rs2 aq rl => encodeA 0b11000#5 aq rl rs2 rs1 rd
  | .amomaxuw rd rs1 rs2 aq rl => encodeA 0b11100#5 aq rl rs2 rs1 rd
  | .csrrw rd csr rs1 => encodeI csr rs1 0b001#3 rd 0b1110011#7
  | .csrrs rd csr rs1 => encodeI csr rs1 0b010#3 rd 0b1110011#7
  | .csrrc rd csr rs1 => encodeI csr rs1 0b011#3 rd 0b1110011#7
  | .csrrwi rd csr uimm => encodeI csr uimm 0b101#3 rd 0b1110011#7
  | .csrrsi rd csr uimm => encodeI csr uimm 0b110#3 rd 0b1110011#7
  | .csrrci rd csr uimm => encodeI csr uimm 0b111#3 rd 0b1110011#7
  | .mret => encodeI 0x302#12 0 0b000#3 0 0b1110011#7
  | .wfi => encodeI 0x105#12 0 0b000#3 0 0b1110011#7

/-- The extension whose list holds the instruction (R153). -/
def extOf : Instr → Ext
  | .lui .. | .auipc .. | .jal .. | .jalr .. | .beq .. | .bne .. | .blt .. | .bge .. | .bltu .. | .bgeu .. => .i
  | .lb .. | .lh .. | .lw .. | .lbu .. | .lhu .. | .sb .. | .sh .. | .sw .. => .i
  | .addi .. | .slti .. | .sltiu .. | .xori .. | .ori .. | .andi .. | .slli .. | .srli .. | .srai .. => .i
  | .add .. | .sub .. | .sll .. | .slt .. | .sltu .. | .xor .. | .srl .. | .sra .. | .or .. | .and .. => .i
  | .fence .. | .ecall | .ebreak => .i
  | .mul .. | .mulh .. | .mulhsu .. | .mulhu .. | .div .. | .divu .. | .rem .. | .remu .. => .m
  | .lrw .. | .scw .. | .amoswapw .. | .amoaddw .. | .amoxorw .. | .amoandw .. | .amoorw .. => .a
  | .amominw .. | .amomaxw .. | .amominuw .. | .amomaxuw .. => .a
  | .csrrw .. | .csrrs .. | .csrrc .. | .csrrwi .. | .csrrsi .. | .csrrci .. | .mret | .wfi => .z

end Sys2Proof
end

