-- ==== Sys2Proof/Machine/Platform.lean ====
section
/-! DEFINITION. The default values of the parameters (spec/00_scope.md R10 to R15; spec/92_eei_decisions.md D9, D10, D12, D16, D17,
D31), and the values the model names where the spec gives a piece of state no reset value (log entries 1, 2, 4, 5). -/

namespace Sys2Proof.Machine

/-- The default CSR_MAP: the numbers of 10_state.md R36. -/
def defaultCsrMap : List (CsrNum × Csr) :=
  [(0x300, .mstatus), (0x304, .mie), (0x305, .mtvec), (0x340, .mscratch), (0x341, .mepc), (0x342, .mcause),
   (0x343, .mtval), (0x344, .mip), (0x7C0, .timecmpl), (0x7C1, .timecmph), (0xC00, .cyclel), (0xC01, .timel),
   (0xC80, .cycleh), (0xC81, .timeh), (0xF11, .mvendorid), (0xF12, .marchid), (0xF13, .mimpid), (0xF14, .mhartid)]

/-- DESIGN CHOICE (log entry 3), unsafe: DRAM_SIZE and the four identity constants are open in the spec; the default takes the values of
its examples (95_test_vectors.md, Conventions). Every other default is the spec's own. -/
def defaultConfig : Config where
  extensions := defaultExtensions
  dramBase := 0x80000000
  dramSize := 0x10000
  uartBase := 0x10000000
  uartSize := 0x100
  uartData := 0
  uartStatus := 5
  uartPattern := 0x60
  mvendorid := 0
  marchid := 0
  mimpid := 0
  mhartid := 0
  timerCmp := .unsigned64
  csrMap := defaultCsrMap

/-- DESIGN CHOICE (log entry 1), unsafe: the values after reset of x1 and x3 to x31, which the spec leaves unspecified (D27): all 0. -/
def defaultRegs : Vector Word 32 := Vector.replicate 32 0

/-- DESIGN CHOICE (log entry 4), unsafe: the ELAPSED of the steps for which the host has listed none, at `State.reset`. -/
def defaultElapsed : Word := 0

end Sys2Proof.Machine
end

