-- ==== Sys2Proof/Machine/State.lean ====
section
/-! DEFINITION. The state of the hart and its bus (spec/10_state.md, spec/20_memory.md R63, R90, R110), the faults and refusals, and the
state after reset (R70, spec/70_reset_and_hazards.md R600). -/

namespace Sys2Proof.Machine

/-- The whole machine as plain data. INVENTORY.md lists each field with its rule. -/
structure State where
  /-- x0 to x31 (R30); read and written through `State.reg` and `State.setReg`, which give x0 its meaning (R31) -/
  regs : Vector Word 32
  pc : Word
  mstatus : Word
  mie : Word
  mip : Word
  mtvec : Word
  mscratch : Word
  mepc : Word
  mcause : Word
  mtval : Word
  timecmpl : Word
  timecmph : Word
  cyclel : Word
  cycleh : Word
  timel : Word
  timeh : Word
  /-- priv in bits 1:0, wfi in bit 2, resv in bits 31:3 (R40) -/
  extraflags : Word
  /-- the trap signal, 0 between steps (R60, R527) -/
  trap : Word
  /-- the RAM (R90) -/
  mem : Memory
  /-- the bytes the host has fed and the UART has not yet taken, next first (R110, R112) -/
  uartIn : List Byte
  /-- the bytes transmitted and not yet drained by the host, oldest first (R111) -/
  uartOut : List Byte
  /-- the ELAPSED the host supplies for the next steps, next first (R14; log entry 4) -/
  elapsedIn : List Word
  /-- the ELAPSED of every step after those (log entry 4) -/
  elapsedRest : Word
  /-- the configuration, which nothing changes (R62; log entry 3) -/
  cfg : Config
deriving DecidableEq, Repr

/-- The fatal errors (60_exceptions.md R540): the step has no next state and the run is over. They are the hardware's own, so each is safe. -/
inductive Fault where
  /-- Raised by the dispatcher for a word that no variant of an enabled extension matches (R152). Safe: the hardware stops too. -/
  | unmatched (word : Word)
  /-- Raised by a fetch, load, store or atomic whose start address no device maps (R84). Safe: the hardware stops too. -/
  | noPeripheral (addr : Word)
  /-- Raised by a fetch, load, store or atomic that runs past the end of its device (R83). Safe: the spec's rule; D8 calls the difference safe. -/
  | outOfRange (addr : Word)
deriving DecidableEq, Repr

/-- What the model does not run. -/
inductive Refusal where
  /-- Raised by an arm of exec whose instruction has no meaning yet; no arm is left that does. Safe: nothing is claimed. -/
  | notModelled (mnemonic : String)
  /-- Raised when the host constructs a core with a configuration that R11 excludes (93_implementation_defined.md Part 1 row 12).
  No step raises it. Safe: the spec refuses it. -/
  | invalidConfiguration
deriving DecidableEq, Repr

/-- Reset (R600): `x` and `ram` are the values of the general registers and of RAM, of which R600 fixes x0 and x2 and leaves the others
open; everything else is as R70 says. -/
def State.resetFrom (c : Config) (x : Vector Word 32) (ram : Memory) : State where
  regs := (x.set 0 0).set 2 (c.dramBase + BitVec.ofNat 32 c.dramSize)
  pc := c.dramBase
  mstatus := 0
  mie := 0
  mip := 0
  mtvec := 0
  mscratch := 0
  mepc := 0
  mcause := 0
  mtval := 0
  timecmpl := 0
  timecmph := 0
  cyclel := 0
  cycleh := 0
  timel := 0
  timeh := 0
  extraflags := 0
  trap := 0
  mem := ram
  uartIn := []
  uartOut := []
  elapsedIn := []
  elapsedRest := defaultElapsed
  cfg := c

/-- The machine right after reset with the default configuration and the values the log names for what R600 leaves open. -/
def State.reset : State := State.resetFrom defaultConfig defaultRegs []

end Sys2Proof.Machine
end

