-- ==== Sys2Proof/Machine/Bus.lean ====
section
/-! DEFINITION. The bus (spec/20_memory.md R80 to R88), its two devices RAM (R90 to R92) and UART (R110 to R115). A value on the bus is the
number of its `n` bytes, less than 256^n. -/

namespace Sys2Proof.Machine

/-- The devices of the address map (R81). -/
inductive Device where
  | uart
  | ram
deriving DecidableEq, Repr

/-- R82: the device whose range holds the start address, the UART window checked first. -/
def route (c : Config) (a : Nat) : Option Device :=
  if c.uartBase.toNat ≤ a ∧ a < c.uartBase.toNat + c.uartSize then some .uart
  else if c.dramBase.toNat ≤ a ∧ a < c.dramBase.toNat + c.dramSize then some .ram
  else none

/-- The first address past a device (R83, computed without wrap-around). -/
def deviceEnd (c : Config) : Device → Nat
  | .uart => c.uartBase.toNat + c.uartSize
  | .ram => c.dramBase.toNat + c.dramSize

/-- The device of an `n`-byte access at `a`, or the fatal error (R83, R84). -/
def access (c : Config) (a : Word) (n : Nat) : Except Fault Device :=
  match route c a.toNat with
  | none => .error (.noPeripheral a)
  | some d => if a.toNat + n ≤ deviceEnd c d then .ok d else .error (.outOfRange a)

/-- A UART read at a window offset, whatever its width (R112 to R115). -/
def uartRead (s : State) (off : Nat) : Nat × State :=
  if off = s.cfg.uartData then
    match s.uartIn with
    | [] => (0, s)
    | c :: rest => (c.toNat, { s with uartIn := rest })
  else if off = s.cfg.uartStatus then
    ((s.cfg.uartPattern ||| (if s.uartIn.isEmpty then 0 else 1)).toNat, s)
  else (0, s)

/-- A UART write at a window offset, whatever its width (R111, R114, R115): the data register transmits the low byte. -/
def uartWrite (s : State) (off v : Nat) : State :=
  if off = s.cfg.uartData then { s with uartOut := s.uartOut ++ [BitVec.ofNat 8 v] } else s

/-- MemRead(a, n) (R85). -/
def busRead (s : State) (a : Word) (n : Nat) : Except Fault (Nat × State) :=
  match access s.cfg a n with
  | .error f => .error f
  | .ok .uart => .ok (uartRead s (a.toNat - s.cfg.uartBase.toNat))
  | .ok .ram => .ok (ramRead s.mem a.toNat n, s)

/-- MemWrite(a, n, v) (R86). -/
def busWrite (s : State) (a : Word) (n v : Nat) : Except Fault State :=
  match access s.cfg a n with
  | .error f => .error f
  | .ok .uart => .ok (uartWrite s (a.toNat - s.cfg.uartBase.toNat) v)
  | .ok .ram => .ok { s with mem := ramWrite s.mem a.toNat n v }

/-- The byte of RAM at an absolute address, as statements read memory. -/
def State.byteAt (s : State) (a : Nat) : Byte := memByte s.mem a

end Sys2Proof.Machine
end

