-- ==== Sys2Proof/Machine/Operands.lean ====
section
/-! DEFINITION. Operand forms: general registers (spec/10_state.md R31, R33), immediates and effective addresses (spec/30_encoding.md
R140, spec/43_i_memory.md R280, R286), sign extension (spec/00_scope.md R18) and fields of a word (R16). -/

namespace Sys2Proof.Machine

/-! ### Registers -/

/-- `x[r]` (R19): x0 reads 0 whatever its storage holds (R31). -/
def State.reg (s : State) (r : RegNum) : Word := if r = 0 then 0 else s.regs[r.toNat]'r.isLt

/-- `x[r] <- v` (R19): a write to x0 has no effect (R31). -/
def State.setReg (s : State) (r : RegNum) (v : Word) : State :=
  if r = 0 then s else { s with regs := s.regs.set r.toNat v r.isLt }

/-- The core's `x[0] <- 0` (R500 steps 5 and 7, R507). -/
def State.clearX0 (s : State) : State := { s with regs := s.regs.set 0 0 }

/-! ### Words -/

/-- `sext_N(v)` (R18). -/
def sext {n : Nat} (v : BitVec n) : Word := v.signExtend 32

/-- Replace the field of `v`'s width whose lowest bit is bit `lo` (R16). -/
def setField (w : Word) (lo : Nat) {n : Nat} (v : BitVec n) : Word :=
  (w &&& ~~~((BitVec.allOnes n).setWidth 32 <<< lo)) ||| (v.setWidth 32 <<< lo)

/-- The operand value immU (R140): `w[31:12] << 12`. -/
def immU (imm : BitVec 20) : Word := imm ++ 0#12

/-- The shift amount of a register shift: `x[rs2][4:0]` (R220). -/
def shiftAmount (v : Word) : Nat := (v.extractLsb' 0 5).toNat

/-- The effective address of a load or store: `x[rs1]` plus the sign-extended immediate (R280, R286). -/
def effAddr (s : State) (rs1 : RegNum) (imm : BitVec 12) : Word := s.reg rs1 + sext imm

end Sys2Proof.Machine
end

