-- ==== Sys2Proof/Machine/Flags.lean ====
section
/-! DEFINITION. The hardware has no status flags (spec/10_state.md R35). What stands here instead: the comparisons, whose result is 0 or 1
in a register or decides a branch, and the single-bit and short fields of mstatus, mie, mip and extraflags (R37 to R43). -/

namespace Sys2Proof.Machine

/-! ### Comparisons (spec/00_scope.md R17) -/

/-- `<s`: on signed readings. -/
def ltS (a b : Word) : Bool := decide (a.toInt < b.toInt)

/-- `<u`: on unsigned readings. -/
def ltU (a b : Word) : Bool := decide (a.toNat < b.toNat)

/-- A comparison's result in a register: exactly 0 or 1 (spec/41_i_integer.md R235). -/
def boolWord (b : Bool) : Word := if b then 1 else 0

/-! ### mstatus, mie, mip (R37 to R39) -/

def State.statusMie (s : State) : Bool := s.mstatus.getLsbD 3
def State.statusMpie (s : State) : Bool := s.mstatus.getLsbD 7
def State.statusMpp (s : State) : BitVec 2 := s.mstatus.extractLsb' 11 2
def State.timerEnabled (s : State) : Bool := s.mie.getLsbD 7
def State.timerPending (s : State) : Bool := s.mip.getLsbD 7

/-- mstatus at trap entry (spec/60_exceptions.md R525): MPIE <- MIE, MIE <- 0, MPP <- priv, the rest kept. -/
def trapStatus (m : Word) (priv : BitVec 2) : Word :=
  setField (setField (setField m 7 (m.extractLsb' 3 1)) 3 0#1) 11 priv

/-- mstatus at MRET (spec/47_zicsr_system.md R420): MIE <- MPIE, MPIE <- 1, MPP <- 0, the rest kept. -/
def mretStatus (m : Word) : Word :=
  setField (setField (setField m 3 (m.extractLsb' 7 1)) 7 1#1) 11 0#2

/-! ### extraflags (R40 to R43) -/

def State.priv (s : State) : BitVec 2 := s.extraflags.extractLsb' 0 2
def State.waiting (s : State) : Bool := s.extraflags.getLsbD 2
def State.resv (s : State) : BitVec 29 := s.extraflags.extractLsb' 3 29

def State.setPriv (s : State) (p : BitVec 2) : State := { s with extraflags := setField s.extraflags 0 p }
def State.setWaiting (s : State) (b : Bool) : State := { s with extraflags := setField s.extraflags 2 (BitVec.ofBool b) }
def State.setResv (s : State) (r : BitVec 29) : State := { s with extraflags := setField s.extraflags 3 r }

end Sys2Proof.Machine
end

