-- ==== Sys2Proof/Machine/Ops.lean ====
section
/-! DEFINITION. The shared operations of the meanings: the program counter (spec/00_scope.md R22), taking a trap and returning from one
(spec/60_exceptions.md R520 to R527, spec/47_zicsr_system.md R420), loads and stores over the bus (spec/43_i_memory.md R280, R286), the CSR
bank (spec/10_state.md R36), and the fetch (spec/20_memory.md R88). -/

namespace Sys2Proof.Machine

/-- What a meaning answers. -/
abbrev Result := Host.Outcome State Fault Refusal

/-! ### The program counter -/

/-- `pc <- target` (R22). -/
def State.setPc (s : State) (p : Word) : State := { s with pc := p }

/-- Continue at P + 4 (R506), modulo 2^32. -/
def advance (s : State) : State := s.setPc (s.pc + 4)

/-- The end of an instruction that writes `v` to rd and continues at P + 4. -/
def retire (rd : RegNum) (v : Word) (s : State) : Result := .next (advance (s.setReg rd v))

/-- A conditional branch: to P + `off` if the condition holds, else to P + 4 (R255). -/
def branch (taken : Bool) (off : BitVec 13) (s : State) : Result :=
  .next (if taken then s.setPc (s.pc + sext off) else advance s)

/-! ### Taking a trap -/

/-- Set the trap signal (R60). -/
def State.setTrap (s : State) (signal : Word) : State := { s with trap := signal }

/-- Step 6 of R500. The pc is already the one the spec records: P + 4 for a synchronous trap, P - 4 for the interrupt (to which 4 is
added here). mcause R521, mtval R522 (codes 6 to 8 are never raised, so the fault-address case is left out: log entry 7), mepc R523, pc
R524, mstatus R525, priv R526; the signal is consumed (R527). -/
def trapEntry (s : State) : State :=
  if s.trap = 0 then s
  else
    let interrupt := s.trap.getLsbD 31
    let pc := if interrupt then s.pc + 4 else s.pc
    { s with
      mcause := if interrupt then s.trap else s.trap - 1
      mtval := if interrupt then 0 else pc
      mepc := pc
      mstatus := trapStatus s.mstatus s.priv
      pc := s.mtvec
      extraflags := setField s.extraflags 0 3#2
      trap := 0 }

/-- An instruction raises trap code `code` and nothing else (R21, R506): the trap is entered with pc = P + 4. -/
def raiseTrap (code : Word) (s : State) : Result := .next (trapEntry ((advance s).setTrap code))

/-- Trap code 3, the illegal instruction (R154, R391, R520). -/
def illegalInstruction (s : State) : Result := raiseTrap 3 s

/-- The timer interrupt (R504): the signal 0x8000_0007 and the pc rolled back by one word, then trap entry. -/
def enterInterrupt (s : State) : State := trapEntry ((s.setPc (s.pc - 4)).setTrap 0x80000007)

/-- Return from a trap (R420): pc <- mepc, priv <- MPP, and mstatus restored. -/
def returnFromTrap (s : State) : State :=
  { (s.setPriv s.statusMpp).setPc s.mepc with mstatus := mretStatus s.mstatus }

/-! ### Memory -/

/-- A load of `n` bytes at x[rs1] + imm (R280): one bus read, then x[rd] gets the value as `ext` reads it. -/
def load (n : Nat) (ext : Nat → Word) (rd rs1 : RegNum) (imm : BitVec 12) (s : State) : Result :=
  match busRead s (effAddr s rs1 imm) n with
  | .error f => .fault f
  | .ok (v, s') => retire rd (ext v) s'

/-- A store of the low `n` bytes of x[rs2] at x[rs1] + imm (R286): one bus write. -/
def store (n : Nat) (rs2 rs1 : RegNum) (imm : BitVec 12) (s : State) : Result :=
  match busWrite s (effAddr s rs1 imm) n (s.reg rs2).toNat with
  | .error f => .fault f
  | .ok s' => .next (advance s')

/-- The instruction fetch (R88, R505): a 4-byte bus read at pc, with its side effects in the UART window (D39). -/
def fetch (s : State) : Except Fault (Word × State) :=
  match busRead s s.pc 4 with
  | .error f => .error f
  | .ok (v, s') => .ok (BitVec.ofNat 32 v, s')

/-! ### The CSR bank -/

/-- `CSR[name]` (R36); the identity CSRs are the configuration's constants (R49). -/
def State.csr (s : State) : Csr → Word
  | .mstatus => s.mstatus
  | .mie => s.mie
  | .mtvec => s.mtvec
  | .mscratch => s.mscratch
  | .mepc => s.mepc
  | .mcause => s.mcause
  | .mtval => s.mtval
  | .mip => s.mip
  | .timecmpl => s.timecmpl
  | .timecmph => s.timecmph
  | .cyclel => s.cyclel
  | .timel => s.timel
  | .cycleh => s.cycleh
  | .timeh => s.timeh
  | .mvendorid => s.cfg.mvendorid
  | .marchid => s.cfg.marchid
  | .mimpid => s.cfg.mimpid
  | .mhartid => s.cfg.mhartid

/-- The read-only CSRs (R36, R391): the counters and the identity constants. -/
def csrReadOnly : Csr → Bool
  | .cyclel | .timel | .cycleh | .timeh | .mvendorid | .marchid | .mimpid | .mhartid => true
  | .mstatus | .mie | .mtvec | .mscratch | .mepc | .mcause | .mtval | .mip | .timecmpl | .timecmph => false

/-- `CSR[name] <- v`: all 32 bits (R394). A read-only CSR is never written (R391). -/
def State.setCsr (s : State) (c : Csr) (v : Word) : State :=
  match c with
  | .mstatus => { s with mstatus := v }
  | .mie => { s with mie := v }
  | .mtvec => { s with mtvec := v }
  | .mscratch => { s with mscratch := v }
  | .mepc => { s with mepc := v }
  | .mcause => { s with mcause := v }
  | .mtval => { s with mtval := v }
  | .mip => { s with mip := v }
  | .timecmpl => { s with timecmpl := v }
  | .timecmph => { s with timecmph := v }
  | .cyclel | .timel | .cycleh | .timeh | .mvendorid | .marchid | .mimpid | .mhartid => s

/-- The CSR a number selects in the configuration's CSR_MAP (R390). -/
def csrAt (c : Config) (n : CsrNum) : Option Csr := c.csrMap.lookup n

end Sys2Proof.Machine
end

