-- ==== Sys2Proof/Machine/Atomic.lean ====
section
/-! DEFINITION. The A extension (spec/46_a_extension.md R350 to R365). The address is x[rs1] with no offset; aq and rl are ignored (R365). -/

namespace Sys2Proof.Machine

/-- The reservation of an address: its bits 28:0 (R350, R351). -/
def reservationOf (addr : Word) : BitVec 29 := addr.extractLsb' 0 29

/-- R350: load the word and reserve its address; priv and wfi are kept. -/
def execLrw (rd rs1 : RegNum) (_aq _rl : Bool) (s : State) : Result :=
  match busRead s (s.reg rs1) 4 with
  | .error f => .fault f
  | .ok (v, s') => retire rd (BitVec.ofNat 32 v) (s'.setResv (reservationOf (s.reg rs1)))

/-- R351: store if the reservation matches; rd is 0 on success and 1 on failure; the reservation is cleared either way. -/
def execScw (rd rs1 rs2 : RegNum) (_aq _rl : Bool) (s : State) : Result :=
  if s.resv = reservationOf (s.reg rs1) then
    match busWrite s (s.reg rs1) 4 (s.reg rs2).toNat with
    | .error f => .fault f
    | .ok s' => retire rd 0 (s'.setResv 0)
  else retire rd 1 (s.setResv 0)

/-- R355: read the word, write `op` of it and x[rs2], and give the old word to rd. -/
def amo (op : Word → Word → Word) (rd rs1 rs2 : RegNum) (s : State) : Result :=
  match busRead s (s.reg rs1) 4 with
  | .error f => .fault f
  | .ok (v, s') =>
    let old : Word := BitVec.ofNat 32 v
    match busWrite s' (s.reg rs1) 4 (op old (s.reg rs2)).toNat with
    | .error f => .fault f
    | .ok s'' => retire rd old s''

/-- R356. -/
def execAmoswapw (rd rs1 rs2 : RegNum) (_aq _rl : Bool) (s : State) : Result :=
  amo (fun _ b => b) rd rs1 rs2 s

/-- R357. -/
def execAmoaddw (rd rs1 rs2 : RegNum) (_aq _rl : Bool) (s : State) : Result :=
  amo (fun old b => old + b) rd rs1 rs2 s

/-- R358. -/
def execAmoxorw (rd rs1 rs2 : RegNum) (_aq _rl : Bool) (s : State) : Result :=
  amo (fun old b => old ^^^ b) rd rs1 rs2 s

/-- R359. -/
def execAmoandw (rd rs1 rs2 : RegNum) (_aq _rl : Bool) (s : State) : Result :=
  amo (fun old b => old &&& b) rd rs1 rs2 s

/-- R360. -/
def execAmoorw (rd rs1 rs2 : RegNum) (_aq _rl : Bool) (s : State) : Result :=
  amo (fun old b => old ||| b) rd rs1 rs2 s

/-- R361. -/
def execAmominw (rd rs1 rs2 : RegNum) (_aq _rl : Bool) (s : State) : Result :=
  amo (fun old b => if ltS b old then b else old) rd rs1 rs2 s

/-- R362. -/
def execAmomaxw (rd rs1 rs2 : RegNum) (_aq _rl : Bool) (s : State) : Result :=
  amo (fun old b => if ltS old b then b else old) rd rs1 rs2 s

/-- R363. -/
def execAmominuw (rd rs1 rs2 : RegNum) (_aq _rl : Bool) (s : State) : Result :=
  amo (fun old b => if ltU b old then b else old) rd rs1 rs2 s

/-- R364. -/
def execAmomaxuw (rd rs1 rs2 : RegNum) (_aq _rl : Bool) (s : State) : Result :=
  amo (fun old b => if ltU old b then b else old) rd rs1 rs2 s

end Sys2Proof.Machine
end

