-- ==== Sys2Proof/Machine/Control.lean ====
section
/-! DEFINITION. RV32I control transfer (spec/42_i_control.md R250 to R266). Targets are computed modulo 2^32 and not checked. -/

namespace Sys2Proof.Machine

/-- R250: rd <- P + 4, pc <- P + immJ. -/
def execJal (rd : RegNum) (off : BitVec 21) (s : State) : Result :=
  .next ((s.setReg rd (s.pc + 4)).setPc (s.pc + sext off))

/-- R251: the target is read from rs1 before rd is written, and its bit 0 cleared. -/
def execJalr (rd rs1 : RegNum) (imm : BitVec 12) (s : State) : Result :=
  .next ((s.setReg rd (s.pc + 4)).setPc ((s.reg rs1 + sext imm) &&& 0xFFFFFFFE#32))

/-- R256. -/
def execBeq (rs1 rs2 : RegNum) (off : BitVec 13) (s : State) : Result := branch (s.reg rs1 == s.reg rs2) off s

/-- R257. -/
def execBne (rs1 rs2 : RegNum) (off : BitVec 13) (s : State) : Result := branch (s.reg rs1 != s.reg rs2) off s

/-- R258. -/
def execBlt (rs1 rs2 : RegNum) (off : BitVec 13) (s : State) : Result := branch (ltS (s.reg rs1) (s.reg rs2)) off s

/-- R259. -/
def execBge (rs1 rs2 : RegNum) (off : BitVec 13) (s : State) : Result := branch (!ltS (s.reg rs1) (s.reg rs2)) off s

/-- R260. -/
def execBltu (rs1 rs2 : RegNum) (off : BitVec 13) (s : State) : Result := branch (ltU (s.reg rs1) (s.reg rs2)) off s

/-- R261. -/
def execBgeu (rs1 rs2 : RegNum) (off : BitVec 13) (s : State) : Result := branch (!ltU (s.reg rs1) (s.reg rs2)) off s

end Sys2Proof.Machine
end

