-- ==== Sys2Proof/Machine/Integer.lean ====
section
/-! DEFINITION. RV32I integer computation (spec/41_i_integer.md R200 to R235). Each meaning reads its sources, writes rd and continues at
P + 4 (`retire`). -/

namespace Sys2Proof.Machine

/-- R200: `x[rd] <- immU`. -/
def execLui (rd : RegNum) (imm : BitVec 20) (s : State) : Result := retire rd (immU imm) s

/-- R201: `x[rd] <- pc + immU`. -/
def execAuipc (rd : RegNum) (imm : BitVec 20) (s : State) : Result := retire rd (s.pc + immU imm) s

/-! ### Register-immediate (R205 to R211) -/

/-- R206: `x[rs1] + immI`. -/
def execAddi (rd rs1 : RegNum) (imm : BitVec 12) (s : State) : Result := retire rd (s.reg rs1 + sext imm) s

/-- R207: `s(x[rs1]) < s(immI)`. -/
def execSlti (rd rs1 : RegNum) (imm : BitVec 12) (s : State) : Result := retire rd (boolWord (ltS (s.reg rs1) (sext imm))) s

/-- R208: `u(x[rs1]) < u(immI)`, the immediate sign-extended first. -/
def execSltiu (rd rs1 : RegNum) (imm : BitVec 12) (s : State) : Result := retire rd (boolWord (ltU (s.reg rs1) (sext imm))) s

/-- R209: `x[rs1] XOR immI`. -/
def execXori (rd rs1 : RegNum) (imm : BitVec 12) (s : State) : Result := retire rd (s.reg rs1 ^^^ sext imm) s

/-- R210: `x[rs1] OR immI`. -/
def execOri (rd rs1 : RegNum) (imm : BitVec 12) (s : State) : Result := retire rd (s.reg rs1 ||| sext imm) s

/-- R211: `x[rs1] AND immI`. -/
def execAndi (rd rs1 : RegNum) (imm : BitVec 12) (s : State) : Result := retire rd (s.reg rs1 &&& sext imm) s

/-! ### Shift-immediate (R215 to R218) -/

/-- R216: `x[rs1] << shamt`. -/
def execSlli (rd rs1 : RegNum) (shamt : BitVec 5) (s : State) : Result := retire rd (s.reg rs1 <<< shamt.toNat) s

/-- R217: `x[rs1] >> shamt`, filled with 0. -/
def execSrli (rd rs1 : RegNum) (shamt : BitVec 5) (s : State) : Result := retire rd (s.reg rs1 >>> shamt.toNat) s

/-- R218: `x[rs1] >>s shamt`, filled with bit 31. -/
def execSrai (rd rs1 : RegNum) (shamt : BitVec 5) (s : State) : Result := retire rd ((s.reg rs1).sshiftRight shamt.toNat) s

/-! ### Register-register (R220 to R230) -/

/-- R221: `x[rs1] + x[rs2]`. -/
def execAdd (rd rs1 rs2 : RegNum) (s : State) : Result := retire rd (s.reg rs1 + s.reg rs2) s

/-- R222: `x[rs1] - x[rs2]`. -/
def execSub (rd rs1 rs2 : RegNum) (s : State) : Result := retire rd (s.reg rs1 - s.reg rs2) s

/-- R223: `x[rs1] << x[rs2][4:0]`. -/
def execSll (rd rs1 rs2 : RegNum) (s : State) : Result := retire rd (s.reg rs1 <<< shiftAmount (s.reg rs2)) s

/-- R224: `s(x[rs1]) < s(x[rs2])`. -/
def execSlt (rd rs1 rs2 : RegNum) (s : State) : Result := retire rd (boolWord (ltS (s.reg rs1) (s.reg rs2))) s

/-- R225: `u(x[rs1]) < u(x[rs2])`. -/
def execSltu (rd rs1 rs2 : RegNum) (s : State) : Result := retire rd (boolWord (ltU (s.reg rs1) (s.reg rs2))) s

/-- R226: `x[rs1] XOR x[rs2]`. -/
def execXor (rd rs1 rs2 : RegNum) (s : State) : Result := retire rd (s.reg rs1 ^^^ s.reg rs2) s

/-- R227: `x[rs1] >> x[rs2][4:0]`. -/
def execSrl (rd rs1 rs2 : RegNum) (s : State) : Result := retire rd (s.reg rs1 >>> shiftAmount (s.reg rs2)) s

/-- R228: `x[rs1] >>s x[rs2][4:0]`. -/
def execSra (rd rs1 rs2 : RegNum) (s : State) : Result := retire rd ((s.reg rs1).sshiftRight (shiftAmount (s.reg rs2))) s

/-- R229: `x[rs1] OR x[rs2]`. -/
def execOr (rd rs1 rs2 : RegNum) (s : State) : Result := retire rd (s.reg rs1 ||| s.reg rs2) s

/-- R230: `x[rs1] AND x[rs2]`. -/
def execAnd (rd rs1 rs2 : RegNum) (s : State) : Result := retire rd (s.reg rs1 &&& s.reg rs2) s

end Sys2Proof.Machine
end

