-- ==== Sys2Proof/Machine/LoadStore.lean ====
section
/-! DEFINITION. RV32I loads, stores and FENCE (spec/43_i_memory.md R280 to R296). -/

namespace Sys2Proof.Machine

/-- R281: one byte, sign-extended. -/
def execLb (rd rs1 : RegNum) (imm : BitVec 12) (s : State) : Result := load 1 (fun v => sext (BitVec.ofNat 8 v)) rd rs1 imm s

/-- R282: two bytes, sign-extended. -/
def execLh (rd rs1 : RegNum) (imm : BitVec 12) (s : State) : Result := load 2 (fun v => sext (BitVec.ofNat 16 v)) rd rs1 imm s

/-- R283: four bytes. -/
def execLw (rd rs1 : RegNum) (imm : BitVec 12) (s : State) : Result := load 4 (BitVec.ofNat 32) rd rs1 imm s

/-- R284: one byte, zero-extended. -/
def execLbu (rd rs1 : RegNum) (imm : BitVec 12) (s : State) : Result := load 1 (BitVec.ofNat 32) rd rs1 imm s

/-- R285: two bytes, zero-extended. -/
def execLhu (rd rs1 : RegNum) (imm : BitVec 12) (s : State) : Result := load 2 (BitVec.ofNat 32) rd rs1 imm s

/-- R287: the low byte of x[rs2]. -/
def execSb (rs2 rs1 : RegNum) (imm : BitVec 12) (s : State) : Result := store 1 rs2 rs1 imm s

/-- R288: the low two bytes of x[rs2]. -/
def execSh (rs2 rs1 : RegNum) (imm : BitVec 12) (s : State) : Result := store 2 rs2 rs1 imm s

/-- R289: all of x[rs2]. -/
def execSw (rs2 rs1 : RegNum) (imm : BitVec 12) (s : State) : Result := store 4 rs2 rs1 imm s

/-- R290: no operation, for every value of every field; there is nothing to order (R101). -/
def execFence (_fm _pred _succ : BitVec 4) (_rs1 _rd : RegNum) (s : State) : Result := .next (advance s)

end Sys2Proof.Machine
end

