-- ==== Sys2Proof/Machine/MulDiv.lean ====
section
/-! DEFINITION. The M extension (spec/45_m_extension.md R320 to R331): products are exact integers before a half is chosen, and division by
zero and overflow have the results the rules give. -/

namespace Sys2Proof.Machine

/-- Bits 63:32 of an exact product (R321 to R323), as an arithmetic right shift. -/
def highWord (p : Int) : Word := BitVec.ofInt 32 (p >>> 32)

/-- R324: rounding towards zero; division by zero gives all ones; -2^31 / -1 gives -2^31. -/
def divSigned (a b : Word) : Word :=
  if b = 0 then 0xFFFFFFFF
  else if a = 0x80000000 ∧ b = 0xFFFFFFFF then 0x80000000
  else BitVec.ofInt 32 (a.toInt.tdiv b.toInt)

/-- R326: the sign follows the dividend; division by zero gives the dividend; -2^31 rem -1 gives 0. -/
def remSigned (a b : Word) : Word :=
  if b = 0 then a
  else if a = 0x80000000 ∧ b = 0xFFFFFFFF then 0
  else BitVec.ofInt 32 (a.toInt - b.toInt * a.toInt.tdiv b.toInt)

/-- R325: floor; division by zero gives all ones. -/
def divUnsigned (a b : Word) : Word := if b = 0 then 0xFFFFFFFF else BitVec.ofNat 32 (a.toNat / b.toNat)

/-- R327: division by zero gives the dividend. -/
def remUnsigned (a b : Word) : Word := if b = 0 then a else BitVec.ofNat 32 (a.toNat % b.toNat)

/-- R320: the low word of the product. -/
def execMul (rd rs1 rs2 : RegNum) (s : State) : Result :=
  retire rd (s.reg rs1 * s.reg rs2) s

/-- R321: the high word, signed by signed. -/
def execMulh (rd rs1 rs2 : RegNum) (s : State) : Result :=
  retire rd (highWord ((s.reg rs1).toInt * (s.reg rs2).toInt)) s

/-- R322: the high word, signed rs1 by unsigned rs2. -/
def execMulhsu (rd rs1 rs2 : RegNum) (s : State) : Result :=
  retire rd (highWord ((s.reg rs1).toInt * ((s.reg rs2).toNat : Int))) s

/-- R323: the high word, unsigned by unsigned. -/
def execMulhu (rd rs1 rs2 : RegNum) (s : State) : Result :=
  retire rd (highWord (((s.reg rs1).toNat : Int) * ((s.reg rs2).toNat : Int))) s

/-- R324: signed division. -/
def execDiv (rd rs1 rs2 : RegNum) (s : State) : Result :=
  retire rd (divSigned (s.reg rs1) (s.reg rs2)) s

/-- R325: unsigned division. -/
def execDivu (rd rs1 rs2 : RegNum) (s : State) : Result :=
  retire rd (divUnsigned (s.reg rs1) (s.reg rs2)) s

/-- R326: signed remainder. -/
def execRem (rd rs1 rs2 : RegNum) (s : State) : Result :=
  retire rd (remSigned (s.reg rs1) (s.reg rs2)) s

/-- R327: unsigned remainder. -/
def execRemu (rd rs1 rs2 : RegNum) (s : State) : Result :=
  retire rd (remUnsigned (s.reg rs1) (s.reg rs2)) s

end Sys2Proof.Machine
end

