-- ==== Sys2Proof/Machine/System.lean ====
section
/-! DEFINITION. Environment call and breakpoint (spec/44_i_system.md R310, R311): each takes its trap. -/

namespace Sys2Proof.Machine

/-- R310: trap code 9 + priv. -/
def execEcall (s : State) : Result := raiseTrap (9 + s.priv.setWidth 32) s

/-- R311: trap code 4. -/
def execEbreak (s : State) : Result := raiseTrap 4 s

end Sys2Proof.Machine
end

