-- ==== Sys2Proof/Machine/Zicsr.lean ====
section
/-! DEFINITION. Zicsr, MRET and WFI (spec/47_zicsr_system.md R390 to R422). No access is checked against priv (R391, R420, R421). -/

namespace Sys2Proof.Machine

/-- The kinds W, S and C of R393. -/
inductive CsrKind where
  | write
  | set
  | clear
deriving DecidableEq, Repr

/-- The new value of R393. -/
def csrNew (k : CsrKind) (old src : Word) : Word :=
  match k with
  | .write => src
  | .set => old ||| src
  | .clear => old &&& ~~~src

/-- R392: the write attempt, decided by the kind and by the field `w[19:15]`, not by its value. -/
def csrWrites (k : CsrKind) (field : BitVec 5) : Bool := k == .write || field != 0

/-- The common sequence of R393; `field` is `w[19:15]` and `src` the operand it gives. -/
def csrOp (k : CsrKind) (rd : RegNum) (num : CsrNum) (field : BitVec 5) (src : Word) (s : State) : Result :=
  match csrAt s.cfg num with
  | none => illegalInstruction s
  | some c =>
    if csrWrites k field && csrReadOnly c then illegalInstruction s
    else
      let old := s.csr c
      retire rd old (if csrWrites k field then s.setCsr c (csrNew k old src) else s)

/-- R400. -/
def execCsrrw (rd : RegNum) (csr : CsrNum) (rs1 : RegNum) (s : State) : Result := csrOp .write rd csr rs1 (s.reg rs1) s

/-- R401. -/
def execCsrrs (rd : RegNum) (csr : CsrNum) (rs1 : RegNum) (s : State) : Result := csrOp .set rd csr rs1 (s.reg rs1) s

/-- R402. -/
def execCsrrc (rd : RegNum) (csr : CsrNum) (rs1 : RegNum) (s : State) : Result := csrOp .clear rd csr rs1 (s.reg rs1) s

/-- R403: the source is `zext(uimm)`. -/
def execCsrrwi (rd : RegNum) (csr : CsrNum) (uimm : BitVec 5) (s : State) : Result := csrOp .write rd csr uimm (uimm.setWidth 32) s

/-- R404: the source is `zext(uimm)`. -/
def execCsrrsi (rd : RegNum) (csr : CsrNum) (uimm : BitVec 5) (s : State) : Result := csrOp .set rd csr uimm (uimm.setWidth 32) s

/-- R405: the source is `zext(uimm)`. -/
def execCsrrci (rd : RegNum) (csr : CsrNum) (uimm : BitVec 5) (s : State) : Result := csrOp .clear rd csr uimm (uimm.setWidth 32) s

/-- R420. -/
def execMret (s : State) : Result := .next (returnFromTrap s)

/-- R421: wfi is set and the step continues at P + 4; the waiting is the step's (R501). -/
def execWfi (s : State) : Result := .next (advance (s.setWaiting true))

end Sys2Proof.Machine
end

