-- ==== Sys2Proof/Machine/Timer.lean ====
section
/-! DEFINITION. The timer, its compare register, the timer-interrupt pending bit and the cycle counter (spec/60_exceptions.md R502, R503,
R504, R511; spec/10_state.md R46 to R48). -/

namespace Sys2Proof.Machine

def State.time (s : State) : BitVec 64 := s.timeh ++ s.timel
def State.timecmp (s : State) : BitVec 64 := s.timecmph ++ s.timecmpl
def State.cycle (s : State) : BitVec 64 := s.cycleh ++ s.cyclel

def State.setTime (s : State) (t : BitVec 64) : State :=
  { s with timel := t.extractLsb' 0 32, timeh := t.extractLsb' 32 32 }

def State.setCycle (s : State) (t : BitVec 64) : State :=
  { s with cyclel := t.extractLsb' 0 32, cycleh := t.extractLsb' 32 32 }

/-- The predicate TIMER_CMP (R13, D17). -/
def timerReached (k : TimerCmp) (time timecmp : BitVec 64) : Bool :=
  let tl := (time.extractLsb' 0 32).toNat
  let th := (time.extractLsb' 32 32).toNat
  let cl := (timecmp.extractLsb' 0 32).toNat
  let ch := (timecmp.extractLsb' 32 32).toNat
  match k with
  | .unsigned64 => decide (timecmp.toNat ≤ time.toNat)
  | .componentwise => decide (cl ≤ tl) && decide (ch ≤ th)
  | .lexicographic => decide (ch < th) || (decide (ch = th) && decide (cl ≤ tl))

/-- The ELAPSED of this step (R14): the next value the host has listed, or its standing value. -/
def State.elapsed (s : State) : Word := s.elapsedIn.headD s.elapsedRest

/-- Step 1 of R500 (R502): a true 64-bit sum; the host's value is used up. -/
def advanceTimer (s : State) : State :=
  { s.setTime (s.time + s.elapsed.setWidth 64) with elapsedIn := s.elapsedIn.tail }

/-- The timer condition of step 2 of R500. -/
def timerCondition (s : State) : Bool :=
  s.timecmp != 0 && timerReached s.cfg.timerCmp s.time s.timecmp

/-- Step 2 of R500 (R503): mip bit 7 is recomputed, and wfi cleared when the condition holds. -/
def checkTimer (s : State) : State :=
  if timerCondition s then { s.setWaiting false with mip := setField s.mip 7 1#1 }
  else { s with mip := setField s.mip 7 0#1 }

/-- The condition of step 4 of R500 (R504). -/
def interruptTaken (s : State) : Bool := s.timerPending && s.timerEnabled && s.statusMie

/-- Step 7 of R500 (R511). -/
def countCycle (s : State) : State := s.setCycle (s.cycle + 1)

end Sys2Proof.Machine
end

