-- ==== Sys2Proof/Machine/Cycle.lean ====
section
/-! DEFINITION. One step of the hart: the seven steps of spec/60_exceptions.md R500 in their order, and how an instruction word is placed
where the next step fetches. `step` in Sys2Proof/Machine/Step.lean is `runStep`. -/

namespace Sys2Proof.Machine

/-- The trap signal is 0 at the start (R527), then steps 1 and 2. -/
def beginStep (s : State) : State := checkTimer (advanceTimer (s.setTrap 0))

/-- Step 7: the cycle counter, and x0 forced to 0 (R507, R511). -/
def endStep (s : State) : State := (countCycle s).clearX0

/-- An instruction's outcome, taken through step 7; a fatal error ends the step (R540). -/
def finish : Result → Result
  | .next s => .next (endStep s)
  | .fault f => .fault f
  | .refused r => .refused r

/-- Dispatch(w) of R150: run the instruction, trap an illegal sub-opcode (R154), or stop (R152). -/
def runWord (w : Word) (s : State) : Result :=
  match dispatch s.cfg.extensions w with
  | .ok i => exec i s
  | .error .illegalSubOpcode => illegalInstruction s
  | .error .unmatched => .fault (.unmatched w)
  | .error .truncated => .fault (.unmatched w)

/-- Steps 3 to 7 of R500, on the state that `beginStep` leaves. Step 6 stands in the meanings that raise a trap: each takes it. -/
def runPhase (s : State) : Result :=
  if s.waiting then .next s
  else if interruptTaken s then .next (endStep (enterInterrupt s))
  else
    match fetch s with
    | .error f => .fault f
    | .ok (w, s') => finish (runWord w s'.clearX0)

/-- Step(ELAPSED) of R500; ELAPSED is what the state's host inputs hold next (R14). -/
def runStep (s : State) : Result := runPhase (beginStep s)

/-- The word's low `nbits` bits as the four bytes of an instruction, stored in RAM at pc (R88, R130). -/
def placeWord (s : State) (nbits w : Nat) : State :=
  { s with mem := ramWrite s.mem s.pc.toNat 4 (w % 2 ^ nbits) }

end Sys2Proof.Machine
end

