-- ==== Sys2Proof/Machine/Step.lean ====
section
/-! DEFINITION. The step of the machine, and the placing of a word where it fetches. -/

namespace Sys2Proof.Machine

/-- One step (spec/60_exceptions.md R500). -/
def step (s : State) : Host.Outcome State Fault Refusal := Sys2Proof.Machine.runStep s

/-- `s` with the instruction whose bits are `w` (numbered as spec/opcode_table.json numbers them) where the next fetch reads. -/
def State.withFetchWord (s : State) (nbits w : Nat) : State := Sys2Proof.Machine.placeWord s nbits w

end Sys2Proof.Machine
end

