-- ==== Sys2Proof/Machine/HostPort.lean ====
section
/-! DEFINITION. The actions of the host between steps (spec/70_reset_and_hazards.md R611, R630, R631, R635). `stop` is to take no further
step. Nothing here is called by `step`. -/

namespace Sys2Proof.Machine

/-- construct (R600, R630): reset with a configuration that R11 allows; `x` and `ram` are the values R600 leaves open. -/
def hostConstruct (c : Config) (x : Vector Word 32) (ram : Memory) : Result :=
  if c.Valid then .next (State.resetFrom c x ram) else .refused .invalidConfiguration

/-- load (R611): store_8 of each byte, from address `a` on. -/
def hostLoadFrom : List Byte → Word → State → Result
  | [], _, s => .next s
  | b :: bytes, a, s =>
    match busWrite s a 1 b.toNat with
    | .error f => .fault f
    | .ok s' => hostLoadFrom bytes (a + 1) s'

/-- load(image) (R611): byte i of the image goes to DRAM_BASE + i. An image longer than DRAM_SIZE ends the load with the fatal error of
R84 at byte DRAM_SIZE, whatever stands above RAM (93_implementation_defined.md Part 1 row 35). -/
def hostLoad (image : List Byte) (s : State) : Result :=
  if image.length ≤ s.cfg.dramSize then hostLoadFrom image s.cfg.dramBase s
  else .fault (.noPeripheral (s.cfg.dramBase + BitVec.ofNat 32 s.cfg.dramSize))

/-- step(ELAPSED) (R630). -/
def hostStep (elapsed : Word) (s : State) : Result := step { s with elapsedIn := elapsed :: s.elapsedIn }

/-- feed UART input (R110, R630). -/
def hostFeed (bytes : List Byte) (s : State) : State := { s with uartIn := s.uartIn ++ bytes }

/-- drain UART output (R111, R630): the bytes transmitted, and the state without them. -/
def hostDrain (s : State) : List Byte × State := (s.uartOut, { s with uartOut := [] })

/-- inspect (R630): x0 to x31 and pc. -/
def hostInspect (s : State) : List Word × Word := ((List.range 32).map (fun n => s.reg (BitVec.ofNat 5 n)), s.pc)

/-- The default CONTINUE of R635: pc lies in the DRAM range. -/
def continueInDram (s : State) : Bool :=
  decide (s.cfg.dramBase.toNat ≤ s.pc.toNat) && decide (s.pc.toNat < s.cfg.dramBase.toNat + s.cfg.dramSize)

/-- How a run ends (R635). -/
inductive RunEnd where
  /-- a fatal error: no final state -/
  | fatal (f : Fault)
  /-- the host's continuation condition fails in this final state -/
  | left (s : State)
  /-- the host stops after its bound of steps, with this final state -/
  | stopped (s : State)
  /-- a step without a meaning; `step` never answers so -/
  | refused (r : Refusal)
deriving DecidableEq, Repr

/-- run (R630, R635): at most `bound` steps, each with the next ELAPSED of the state, while `cont` holds before the step. DESIGN CHOICE
(log entry 17): `cont` is checked before every step, the first included; and where the bound is used up the run is `stopped` without
asking `cont` again, so it answers `stopped` also in a state where `cont` fails. R635 gives neither. -/
def hostRun (cont : State → Bool) : Nat → State → RunEnd
  | 0, s => .stopped s
  | bound + 1, s =>
    if cont s then
      match step s with
      | .next s' => hostRun cont bound s'
      | .fault f => .fatal f
      | .refused r => .refused r
    else .left s

end Sys2Proof.Machine
end

