-- ==== Sys2Proof/Safety.lean ====
section
/-! DEFINITION. The terms in which the claims speak: the invariant of the machine, the frames of the meanings, and what a trap leaves. -/

namespace Sys2Proof.Machine

/-- Every cell of RAM lies in the DRAM range (spec/20_memory.md R90). -/
abbrev State.ramInRange (s : State) : Prop :=
  ∀ c ∈ s.mem, s.cfg.dramBase.toNat ≤ c.1 ∧ c.1 < s.cfg.dramBase.toNat + s.cfg.dramSize

/-- The invariant: RAM in its canonical form and inside the DRAM range, the trap signal 0 (R527), the storage of x0 zero (R507). -/
abbrev State.Inv (s : State) : Prop :=
  s.mem.wf ∧ s.ramInRange ∧ s.trap = 0 ∧ s.regs[0] = 0

/-- `t` differs from `s` in general registers and pc only. -/
def SameButRegsPc (s t : State) : Prop := t = { s with regs := t.regs, pc := t.pc }

/-- The effect of an instruction on the general registers: rd holds `v` (0 if rd is x0, R31), and every other register its old value. -/
def WritesReg (s t : State) (rd : RegNum) (v : Word) : Prop :=
  t.reg rd = (if rd = 0 then 0 else v) ∧ ∀ r, r ≠ rd → t.reg r = s.reg r

/-- `i` writes `v` to rd, continues at P + 4 and changes nothing else. -/
def ComputesInto (i : Instr) (rd : RegNum) (v : State → Word) : Prop :=
  ∀ s, ∃ t, exec i s = .next t ∧ WritesReg s t rd (v s) ∧ t.pc = s.pc + 4 ∧ SameButRegsPc s t

/-- `w` is a word of instruction `i`, which stands in the list of extension `e`: wherever `e` is enabled it decodes to `i` (R150, R157). -/
def IsWordOf (e : Ext) (w : Word) (i : Instr) : Prop := ∀ exts : List Ext, e ∈ exts → dispatch exts w = .ok i

/-- No extension list gives `w` a variant (R152). -/
def NoVariantFor (w : Word) : Prop := ∀ exts : List Ext, dispatch exts w = .error .unmatched

/-- `w` is the word of `i`, and `i` writes `v` to rd, continues at P + 4 and changes nothing else: no exception in any state. -/
def Computes (e : Ext) (w : Word) (i : Instr) (rd : RegNum) (v : State → Word) : Prop := IsWordOf e w i ∧ ComputesInto i rd v

/-- What trap entry leaves (R521 to R527): mcause, mepc and mtval as given, pc = mtvec, mstatus with MPIE, MIE and MPP as R525 says and its
other bits kept, priv = 3 with wfi and resv kept, the signal consumed; and nothing else changed. -/
def TrapEntered (cause epc tval : Word) (s t : State) : Prop :=
  t.mcause = cause ∧ t.mepc = epc ∧ t.mtval = tval ∧ t.pc = s.mtvec ∧
  t.mstatus.getLsbD 7 = s.mstatus.getLsbD 3 ∧ t.mstatus.getLsbD 3 = false ∧ t.statusMpp = s.priv ∧
  (∀ k, k < 32 → k ≠ 3 → k ≠ 7 → k ≠ 11 → k ≠ 12 → t.mstatus.getLsbD k = s.mstatus.getLsbD k) ∧
  t.priv = 3 ∧ t.waiting = s.waiting ∧ t.resv = s.resv ∧ t.trap = 0 ∧
  t = { s with
    mcause := t.mcause, mepc := t.mepc, mtval := t.mtval, pc := t.pc, mstatus := t.mstatus, extraflags := t.extraflags, trap := t.trap }

/-- A synchronous trap with cause `cause`, raised by the instruction at P = pc: mepc = mtval = P + 4. -/
abbrev TrapsWith (cause : Word) (s t : State) : Prop := TrapEntered cause (s.pc + 4) (s.pc + 4) s t

/-- The timer interrupt before the instruction at P = pc: mepc = P, mtval = 0. -/
abbrev InterruptsTo (s t : State) : Prop := TrapEntered 0x80000007#32 s.pc 0 s t

/-- An `n`-byte access at `a` lies in RAM and not in the UART window (R81 to R83). -/
abbrev InRam (c : Config) (a : Word) (n : Nat) : Prop :=
  ¬ (c.uartBase.toNat ≤ a.toNat ∧ a.toNat < c.uartBase.toNat + c.uartSize) ∧
  c.dramBase.toNat ≤ a.toNat ∧ 1 ≤ n ∧ a.toNat + n ≤ c.dramBase.toNat + c.dramSize

/-- An `n`-byte access at `a` lies in the UART window (R81 to R83). -/
abbrev InUart (c : Config) (a : Word) (n : Nat) : Prop :=
  c.uartBase.toNat ≤ a.toNat ∧ 1 ≤ n ∧ a.toNat + n ≤ c.uartBase.toNat + c.uartSize

/-- The start address lies in no device (R84). -/
abbrev Unmapped (c : Config) (a : Word) : Prop :=
  ¬ (c.uartBase.toNat ≤ a.toNat ∧ a.toNat < c.uartBase.toNat + c.uartSize) ∧
  ¬ (c.dramBase.toNat ≤ a.toNat ∧ a.toNat < c.dramBase.toNat + c.dramSize)

/-- The access finds its device and ends inside it (R82, R83). -/
abbrev Mapped (c : Config) (a : Word) (n : Nat) : Prop := InRam c a n ∨ InUart c a n

/-- The fatal error of an access that does not (R83, R84). -/
def AccessFails (c : Config) (a : Word) (n : Nat) (f : Fault) : Prop :=
  (Unmapped c a ∧ f = .noPeripheral a) ∨ (¬ Unmapped c a ∧ ¬ Mapped c a n ∧ f = .outOfRange a)

/-- The little-endian word of RAM at an address (R91). -/
def State.wordAt (s : State) (a : Nat) : Word := s.byteAt (a + 3) ++ s.byteAt (a + 2) ++ s.byteAt (a + 1) ++ s.byteAt a

/-- RamRead(a, n) as R91 writes it: the sum of `ram[a + i] << (8 * i)`. -/
def State.leValue (s : State) (a n : Nat) : Nat := ((List.range n).map fun k => (s.byteAt (a + k)).toNat * 2 ^ (8 * k)).sum

/-- The words that a catch-all variant matches and does not know (spec/30_encoding.md R160, class 2, without the CSR accesses). -/
def IllegalSelector (w : Word) : Prop :=
  (opcodeOf w = 0b1100011#7 ∧ (funct3Of w = 2 ∨ funct3Of w = 3)) ∨
  (opcodeOf w = 0b0000011#7 ∧ (funct3Of w = 3 ∨ funct3Of w = 6 ∨ funct3Of w = 7)) ∨
  (opcodeOf w = 0b0100011#7 ∧ 3 ≤ (funct3Of w).toNat) ∨
  (opcodeOf w = 0b0010011#7 ∧
    ((funct3Of w = 1 ∧ funct7Of w ≠ 0) ∨ (funct3Of w = 5 ∧ funct7Of w ≠ 0 ∧ funct7Of w ≠ 0b0100000#7))) ∨
  (opcodeOf w = 0b0110011#7 ∧ funct7Of w = 0b0100000#7 ∧ funct3Of w ≠ 0 ∧ funct3Of w ≠ 5)

/-- The words that no variant of any extension matches (spec/30_encoding.md R160, class 3). -/
def UnmatchedListed (w : Word) : Prop :=
  opcodeOf w ∉ [0b0000011#7, 0b0001111#7, 0b0010011#7, 0b0010111#7, 0b0100011#7, 0b0101111#7, 0b0110011#7, 0b0110111#7, 0b1100011#7,
    0b1100111#7, 0b1101111#7, 0b1110011#7] ∨
  (opcodeOf w = 0b0110011#7 ∧ funct7Of w ∉ [0b0000000#7, 0b0100000#7, 0b0000001#7]) ∨
  (opcodeOf w = 0b1100111#7 ∧ funct3Of w ≠ 0) ∨
  (opcodeOf w = 0b0001111#7 ∧ funct3Of w ≠ 0) ∨
  (opcodeOf w = 0b0101111#7 ∧ (funct3Of w ≠ 2 ∨ bits w 27 5 ∉ [0b00010#5, 0b00011#5, 0b00001#5, 0b00000#5, 0b00100#5, 0b01100#5,
    0b01000#5, 0b10000#5, 0b10100#5, 0b11000#5, 0b11100#5] ∨ (bits w 27 5 = 0b00010#5 ∧ rs2Of w ≠ 0))) ∨
  (opcodeOf w = 0b1110011#7 ∧ funct3Of w = 0 ∧ w ∉ [0x00000073#32, 0x00100073#32, 0x30200073#32, 0x10500073#32]) ∨
  (opcodeOf w = 0b1110011#7 ∧ funct3Of w = 4)

/-- The address and the width of the memory access an instruction makes in `s`; none if it makes none. A failing SC.W makes none (R351). -/
def memOperand (i : Instr) (s : State) : Option (Word × Nat) :=
  match i with
  | .lb _ rs1 imm | .lbu _ rs1 imm | .sb _ rs1 imm => some (s.reg rs1 + imm.signExtend 32, 1)
  | .lh _ rs1 imm | .lhu _ rs1 imm | .sh _ rs1 imm => some (s.reg rs1 + imm.signExtend 32, 2)
  | .lw _ rs1 imm | .sw _ rs1 imm => some (s.reg rs1 + imm.signExtend 32, 4)
  | .lrw _ rs1 _ _ => some (s.reg rs1, 4)
  | .scw _ rs1 _ _ _ => if s.extraflags >>> 3 = s.reg rs1 &&& 0x1FFFFFFF#32 then some (s.reg rs1, 4) else none
  | .amoswapw _ rs1 _ _ _ | .amoaddw _ rs1 _ _ _ | .amoxorw _ rs1 _ _ _ | .amoandw _ rs1 _ _ _ | .amoorw _ rs1 _ _ _
  | .amominw _ rs1 _ _ _ | .amomaxw _ rs1 _ _ _ | .amominuw _ rs1 _ _ _ | .amomaxuw _ rs1 _ _ _ => some (s.reg rs1, 4)
  | _ => none

/-- What a UART read at window offset `off` returns (spec/20_memory.md R112 to R114): the next input byte or 0, the status, or 0. -/
def uartByte (s : State) (off : Nat) : Byte :=
  if off = s.cfg.uartData then s.uartIn.headD 0
  else if off = s.cfg.uartStatus then s.cfg.uartPattern ||| (if s.uartIn = [] then 0 else 1)
  else 0

/-- The input stream after a UART read at window offset `off`: one byte less at the data register (R112), else unchanged (R113, R114). -/
def uartInAfter (s : State) (off : Nat) : List Byte := if off = s.cfg.uartData then s.uartIn.tail else s.uartIn

/-- What an `n`-byte bus read at `a` in `s` returns, `v`, and what it leaves of the UART input stream in `t` (R85, R91, R112 to R115). -/
def BusReads (s t : State) (a : Word) (n v : Nat) : Prop :=
  (InRam s.cfg a n ∧ v = s.leValue a.toNat n ∧ t.uartIn = s.uartIn) ∨
  (InUart s.cfg a n ∧ v = (uartByte s (a.toNat - s.cfg.uartBase.toNat)).toNat ∧
    t.uartIn = uartInAfter s (a.toNat - s.cfg.uartBase.toNat))

/-- What an `n`-byte bus write of `v` at `a` in `s` leaves of RAM and of the UART output stream in `t` (R86, R92, R111, R114). -/
def BusWrites (s t : State) (a : Word) (n v : Nat) : Prop :=
  (InRam s.cfg a n ∧ (∀ k, k < n → t.byteAt (a.toNat + k) = BitVec.ofNat 8 (v >>> (8 * k))) ∧
    (∀ b, b < a.toNat ∨ a.toNat + n ≤ b → t.byteAt b = s.byteAt b) ∧ t.uartOut = s.uartOut) ∨
  (InUart s.cfg a n ∧ t.mem = s.mem ∧
    t.uartOut = if a.toNat - s.cfg.uartBase.toNat = s.cfg.uartData then s.uartOut ++ [BitVec.ofNat 8 v] else s.uartOut)

/-- `i` loads `n` bytes at x[rs1] + imm into rd as `ext` reads them; the access decides whether it completes (R280). -/
def LoadsInto (i : Instr) (rd rs1 : RegNum) (imm : BitVec 12) (n : Nat) (ext : Nat → Word) : Prop :=
  ∀ s : State,
    let ea := s.reg rs1 + imm.signExtend 32
    (Mapped s.cfg ea n → ∃ t v, exec i s = .next t ∧ BusReads s t ea n v ∧ WritesReg s t rd (ext v) ∧
      t = { s with regs := t.regs, pc := s.pc + 4, uartIn := t.uartIn }) ∧
    (∀ f, AccessFails s.cfg ea n f → exec i s = .fault f)

/-- `i` stores the low `n` bytes of x[rs2] at x[rs1] + imm; the access decides whether it completes (R286). -/
def StoresAt (i : Instr) (rs2 rs1 : RegNum) (imm : BitVec 12) (n : Nat) : Prop :=
  ∀ s : State,
    let ea := s.reg rs1 + imm.signExtend 32
    (Mapped s.cfg ea n → ∃ t, exec i s = .next t ∧ BusWrites s t ea n (s.reg rs2).toNat ∧
      t = { s with pc := s.pc + 4, mem := t.mem, uartOut := t.uartOut }) ∧
    (∀ f, AccessFails s.cfg ea n f → exec i s = .fault f)

/-- The nine AMOs with their funct5 and their operation on the old word and x[rs2] (spec/46_a_extension.md R356 to R364). -/
def amoTable (rd rs1 rs2 : RegNum) (aq rl : Bool) : List (BitVec 5 × Instr × (Word → Word → Word)) :=
  [(0b00001, .amoswapw rd rs1 rs2 aq rl, fun _ b => b),
   (0b00000, .amoaddw rd rs1 rs2 aq rl, fun old b => BitVec.ofNat 32 (old.toNat + b.toNat)),
   (0b00100, .amoxorw rd rs1 rs2 aq rl, fun old b => old ^^^ b),
   (0b01100, .amoandw rd rs1 rs2 aq rl, fun old b => old &&& b),
   (0b01000, .amoorw rd rs1 rs2 aq rl, fun old b => old ||| b),
   (0b10000, .amominw rd rs1 rs2 aq rl, fun old b => if old.toInt ≤ b.toInt then old else b),
   (0b10100, .amomaxw rd rs1 rs2 aq rl, fun old b => if old.toInt ≥ b.toInt then old else b),
   (0b11000, .amominuw rd rs1 rs2 aq rl, fun old b => if old.toNat ≤ b.toNat then old else b),
   (0b11100, .amomaxuw rd rs1 rs2 aq rl, fun old b => if old.toNat ≥ b.toNat then old else b)]

/-- The six CSR instructions with their funct3, whether they attempt a write (R392), and the value they then write (R393), from the old
value. `f` is the field `w[19:15]`: rs1, or the immediate. -/
def csrTable (rd : RegNum) (num : CsrNum) (f : BitVec 5) (s : State) : List (BitVec 3 × Instr × Bool × (Word → Word)) :=
  [(0b001, .csrrw rd num f, true, fun _ => s.reg f),
   (0b010, .csrrs rd num f, decide (f ≠ 0), fun old => old ||| s.reg f),
   (0b011, .csrrc rd num f, decide (f ≠ 0), fun old => old &&& ~~~(s.reg f)),
   (0b101, .csrrwi rd num f, true, fun _ => f.zeroExtend 32),
   (0b110, .csrrsi rd num f, decide (f ≠ 0), fun old => old ||| f.zeroExtend 32),
   (0b111, .csrrci rd num f, decide (f ≠ 0), fun old => old &&& ~~~(f.zeroExtend 32))]

/-- No step from `s` is fatal for `k` steps: what a safe run means. -/
def SafeFor : Nat → State → Prop
  | 0, _ => True
  | k + 1, s => ∃ t, step s = .next t ∧ SafeFor k t

end Sys2Proof.Machine
end

