-- ==== Sys2Proof/Certificates/Slice0/Obligations.lean ====
section
/-! DEFINITION. The statements for the provers. Each docstring names the rule of spec/ it formalises. -/

open Sys2Proof Sys2Proof.Machine

/-! ### Encoding and dispatch -/

/-- Every well-formed instruction's word decodes to it, whatever extensions stand beside its own and in whatever order. -/
def Obligations.EncodedInstructionDecodes : Prop :=
  ∀ (exts : List Ext) (i : Instr), i.wellFormed = true → extOf i ∈ exts → dispatch exts (encode i) = .ok i

/-- A word that decodes is the word of the instruction it decodes to, which is well-formed and of an enabled extension. -/
def Obligations.DecodedWordIsEncoding : Prop :=
  ∀ (exts : List Ext) (w : Word) (i : Instr), dispatch exts w = .ok i →
    encode i = w ∧ i.wellFormed = true ∧ extOf i ∈ exts

/-- The spec's own inference in R157 ("by comparing the fixed bits of every pair of templates"). -/
def Obligations.ExtensionOrderIrrelevant : Prop :=
  (∀ (e e' : Ext) (v v' : Variant) (w : Word), v ∈ variantsOf e → v' ∈ variantsOf e' → v.template.matches w = true →
    v'.template.matches w = true → e = e') ∧
  (∀ (exts exts' : List Ext) (w : Word), (∀ e, variantsOf e ≠ [] → (e ∈ exts ↔ e ∈ exts')) →
    dispatch exts w = dispatch exts' w) ∧
  (∀ (exts : List Ext) (e : Ext) (v : Variant) (w : Word), v ∈ variantsOf e → v.template.matches w = true → e ∉ exts →
    dispatch exts w = .error .unmatched)

/-- R146: a word matches iff every literal position agrees; position `k` of the pattern is bit 31 - k. -/
def Obligations.TemplateMatchesIffLiteralsAgree : Prop :=
  ∀ (p : List PatternBit) (hp : p.length = 32) (w : Word),
    (Template.ofPattern p).matches w = true ↔
      ∀ (k : Nat) (hk : k < 32),
        (p[k] = .one → w.getLsbD (31 - k) = true) ∧ (p[k] = .zero → w.getLsbD (31 - k) = false)

/-- Words written out from the encodings of 30_encoding.md, one or two for each extension, decode to the instruction they stand for. -/
def Obligations.WrittenWordsDecode : Prop :=
  dispatch defaultExtensions 0b111111111111_00001_000_00010_0010011#32 = .ok (.addi 2 1 (-1)) ∧
  dispatch defaultExtensions 0b0000000_00001_00001_001_00001_0010011#32 = .ok (.slli 1 1 1) ∧
  dispatch defaultExtensions 0b1_111111_00010_00001_000_1100_1_1100011#32 = .ok (.beq 1 2 (-8)) ∧
  dispatch defaultExtensions 0b1111111_00010_00001_010_11000_0100011#32 = .ok (.sw 2 1 (-8)) ∧
  dispatch defaultExtensions 0b1_1111111110_1_11111111_00000_1101111#32 = .ok (.jal 0 (-4)) ∧
  dispatch defaultExtensions 0b0000001_00010_00001_010_00011_0110011#32 = .ok (.mulhsu 3 1 2) ∧
  dispatch defaultExtensions 0b00000_1_1_00010_00001_010_00011_0101111#32 = .ok (.amoaddw 3 1 2 true true) ∧
  dispatch defaultExtensions 0b001100000100_11111_101_00011_1110011#32 = .ok (.csrrwi 3 0x304 31)

/-- The illegal sub-opcodes are exactly the words that R160 lists for the catch-all variants, when extension i is enabled. -/
def Obligations.IllegalSubOpcodesAreThoseListed : Prop :=
  ∀ (exts : List Ext) (w : Word), .i ∈ exts → (dispatch exts w = .error .illegalSubOpcode ↔ IllegalSelector w)

/-- The words that no extension matches are exactly the words of R160's class 3, when all four extensions are enabled. -/
def Obligations.UnmatchedWordsAreThoseListed : Prop :=
  ∀ (exts : List Ext) (w : Word), .i ∈ exts → .m ∈ exts → .a ∈ exts → .z ∈ exts →
    (dispatch exts w = .error .unmatched ↔ UnmatchedListed w)

/-- R154, R231, R262: the illegal sub-opcodes trap with mcause 2 and do nothing else. -/
def Obligations.IllegalSubOpcodeTraps : Prop :=
  ∀ (w : Word) (s : State), .i ∈ s.cfg.extensions → IllegalSelector w → ∃ t, runWord w s = .next t ∧ TrapsWith 2 s t

/-! ### Integer computation -/

/-- R200, R201. -/
def Obligations.UpperImmediateResults : Prop :=
  ∀ (rd : RegNum) (imm : BitVec 20),
    Computes .i (encodeU imm rd 0b0110111#7) (.lui rd imm) rd
      (fun _ => BitVec.ofNat 32 (imm.toNat * 2 ^ 12)) ∧
    Computes .i (encodeU imm rd 0b0010111#7) (.auipc rd imm) rd
      (fun s => BitVec.ofNat 32 (s.pc.toNat + imm.toNat * 2 ^ 12))

/-- R206 to R211. -/
def Obligations.RegisterImmediateResults : Prop :=
  ∀ (rd rs1 : RegNum) (imm : BitVec 12),
    Computes .i (encodeI imm rs1 0b000#3 rd 0b0010011#7) (.addi rd rs1 imm) rd
      (fun s => BitVec.ofInt 32 ((s.reg rs1).toInt + imm.toInt)) ∧
    Computes .i (encodeI imm rs1 0b010#3 rd 0b0010011#7) (.slti rd rs1 imm) rd
      (fun s => if (s.reg rs1).toInt < imm.toInt then 1 else 0) ∧
    Computes .i (encodeI imm rs1 0b011#3 rd 0b0010011#7) (.sltiu rd rs1 imm) rd
      (fun s => if (s.reg rs1).toNat < (imm.signExtend 32).toNat then 1 else 0) ∧
    Computes .i (encodeI imm rs1 0b100#3 rd 0b0010011#7) (.xori rd rs1 imm) rd
      (fun s => s.reg rs1 ^^^ imm.signExtend 32) ∧
    Computes .i (encodeI imm rs1 0b110#3 rd 0b0010011#7) (.ori rd rs1 imm) rd
      (fun s => s.reg rs1 ||| imm.signExtend 32) ∧
    Computes .i (encodeI imm rs1 0b111#3 rd 0b0010011#7) (.andi rd rs1 imm) rd
      (fun s => s.reg rs1 &&& imm.signExtend 32)

/-- R216 to R218, with the trap of any other funct7 (R215). -/
def Obligations.ShiftImmediateResults : Prop :=
  (∀ (rd rs1 : RegNum) (shamt : BitVec 5),
    Computes .i (encodeR 0b0000000#7 shamt rs1 0b001#3 rd 0b0010011#7) (.slli rd rs1 shamt) rd
      (fun s => BitVec.ofNat 32 ((s.reg rs1).toNat * 2 ^ shamt.toNat)) ∧
    Computes .i (encodeR 0b0000000#7 shamt rs1 0b101#3 rd 0b0010011#7) (.srli rd rs1 shamt) rd
      (fun s => BitVec.ofNat 32 ((s.reg rs1).toNat / 2 ^ shamt.toNat)) ∧
    Computes .i (encodeR 0b0100000#7 shamt rs1 0b101#3 rd 0b0010011#7) (.srai rd rs1 shamt) rd
      (fun s => BitVec.ofInt 32 ((s.reg rs1).toInt / 2 ^ shamt.toNat))) ∧
  ∀ (w : Word) (s : State), .i ∈ s.cfg.extensions → opcodeOf w = 0b0010011#7 →
    (funct3Of w = 1 ∧ funct7Of w ≠ 0 ∨ funct3Of w = 5 ∧ funct7Of w ≠ 0 ∧ funct7Of w ≠ 0b0100000#7) →
    ∃ t, runWord w s = .next t ∧ TrapsWith 2 s t

/-- R221 to R230. -/
def Obligations.RegisterRegisterResults : Prop :=
  ∀ (rd rs1 rs2 : RegNum),
    Computes .i (encodeR 0b0000000#7 rs2 rs1 0b000#3 rd 0b0110011#7) (.add rd rs1 rs2) rd
      (fun s => BitVec.ofNat 32 ((s.reg rs1).toNat + (s.reg rs2).toNat)) ∧
    Computes .i (encodeR 0b0100000#7 rs2 rs1 0b000#3 rd 0b0110011#7) (.sub rd rs1 rs2) rd
      (fun s => BitVec.ofInt 32 ((s.reg rs1).toNat - (s.reg rs2).toNat)) ∧
    Computes .i (encodeR 0b0000000#7 rs2 rs1 0b001#3 rd 0b0110011#7) (.sll rd rs1 rs2) rd
      (fun s => BitVec.ofNat 32 ((s.reg rs1).toNat * 2 ^ ((s.reg rs2).toNat % 32))) ∧
    Computes .i (encodeR 0b0000000#7 rs2 rs1 0b010#3 rd 0b0110011#7) (.slt rd rs1 rs2) rd
      (fun s => if (s.reg rs1).toInt < (s.reg rs2).toInt then 1 else 0) ∧
    Computes .i (encodeR 0b0000000#7 rs2 rs1 0b011#3 rd 0b0110011#7) (.sltu rd rs1 rs2) rd
      (fun s => if (s.reg rs1).toNat < (s.reg rs2).toNat then 1 else 0) ∧
    Computes .i (encodeR 0b0000000#7 rs2 rs1 0b100#3 rd 0b0110011#7) (.xor rd rs1 rs2) rd
      (fun s => s.reg rs1 ^^^ s.reg rs2) ∧
    Computes .i (encodeR 0b0000000#7 rs2 rs1 0b101#3 rd 0b0110011#7) (.srl rd rs1 rs2) rd
      (fun s => BitVec.ofNat 32 ((s.reg rs1).toNat / 2 ^ ((s.reg rs2).toNat % 32))) ∧
    Computes .i (encodeR 0b0100000#7 rs2 rs1 0b101#3 rd 0b0110011#7) (.sra rd rs1 rs2) rd
      (fun s => BitVec.ofInt 32 ((s.reg rs1).toInt / 2 ^ ((s.reg rs2).toNat % 32))) ∧
    Computes .i (encodeR 0b0000000#7 rs2 rs1 0b110#3 rd 0b0110011#7) (.or rd rs1 rs2) rd
      (fun s => s.reg rs1 ||| s.reg rs2) ∧
    Computes .i (encodeR 0b0000000#7 rs2 rs1 0b111#3 rd 0b0110011#7) (.and rd rs1 rs2) rd
      (fun s => s.reg rs1 &&& s.reg rs2)

/-! ### Control transfer -/

/-- R250, R251; JALR's other funct3 is unmatched. -/
def Obligations.JumpResults : Prop :=
  (∀ (rd : RegNum) (off : BitVec 21),
    (off.getLsbD 0 = false → IsWordOf .i (encodeJ off rd 0b1101111#7) (.jal rd off)) ∧
    ∀ s : State, ∃ t, exec (.jal rd off) s = .next t ∧ WritesReg s t rd (s.pc + 4) ∧
      t.pc = BitVec.ofInt 32 (s.pc.toInt + off.toInt) ∧ SameButRegsPc s t) ∧
  (∀ (rd rs1 : RegNum) (imm : BitVec 12),
    IsWordOf .i (encodeI imm rs1 0b000#3 rd 0b1100111#7) (.jalr rd rs1 imm) ∧
    ∀ s : State, ∃ t, exec (.jalr rd rs1 imm) s = .next t ∧ WritesReg s t rd (s.pc + 4) ∧ t.pc.getLsbD 0 = false ∧
      (∀ k, 1 ≤ k → k < 32 → t.pc.getLsbD k = (BitVec.ofInt 32 ((s.reg rs1).toInt + imm.toInt)).getLsbD k) ∧
      SameButRegsPc s t) ∧
  (∀ w : Word, opcodeOf w = 0b1100111#7 → funct3Of w ≠ 0 → NoVariantFor w)

/-- R256 to R261: the branch goes to P + immB when its condition holds and to P + 4 when not, and writes nothing else. -/
def Obligations.BranchResults : Prop :=
  ∀ (rs1 rs2 : RegNum) (off : BitVec 13),
    let branches (f3 : BitVec 3) (i : Instr) (cond : Word → Word → Prop) : Prop :=
      (off.getLsbD 0 = false → IsWordOf .i (encodeB off rs2 rs1 f3 0b1100011#7) i) ∧
      ∀ s : State,
        (cond (s.reg rs1) (s.reg rs2) → exec i s = .next { s with pc := BitVec.ofInt 32 (s.pc.toInt + off.toInt) }) ∧
        (¬ cond (s.reg rs1) (s.reg rs2) → exec i s = .next { s with pc := s.pc + 4 })
    branches 0b000 (.beq rs1 rs2 off) (fun a b => a = b) ∧
    branches 0b001 (.bne rs1 rs2 off) (fun a b => a ≠ b) ∧
    branches 0b100 (.blt rs1 rs2 off) (fun a b => a.toInt < b.toInt) ∧
    branches 0b101 (.bge rs1 rs2 off) (fun a b => a.toInt ≥ b.toInt) ∧
    branches 0b110 (.bltu rs1 rs2 off) (fun a b => a.toNat < b.toNat) ∧
    branches 0b111 (.bgeu rs1 rs2 off) (fun a b => a.toNat ≥ b.toNat)

/-! ### The bus, loads, stores, FENCE -/

/-- The bus in both its devices, for the four widths and at any alignment: what a read returns, what a write leaves, and the fatal errors
(R83 to R86, R91, R92, R111 to R115; offsets 0 and 5 and the pattern 60H are the configuration's default). -/
def Obligations.BusAccesses : Prop :=
  ∀ (s : State) (a : Word) (n : Nat), n ∈ [1, 2, 4, 8] →
    (Mapped s.cfg a n →
      (∃ t v, busRead s a n = .ok (v, t) ∧ BusReads s t a n v ∧ t = { s with uartIn := t.uartIn }) ∧
      ∀ v : Nat, ∃ t, busWrite s a n v = .ok t ∧ BusWrites s t a n v ∧ t = { s with mem := t.mem, uartOut := t.uartOut }) ∧
    (∀ f, AccessFails s.cfg a n f → busRead s a n = .error f ∧ ∀ v : Nat, busWrite s a n v = .error f)

/-- R88: a fetch is a 4-byte bus read at pc, with its fatal errors and, in the UART window, its side effect. -/
def Obligations.FetchIsBusRead : Prop :=
  ∀ s : State,
    (Mapped s.cfg s.pc 4 → ∃ t v, fetch s = .ok (BitVec.ofNat 32 v, t) ∧ BusReads s t s.pc 4 v ∧
      t = { s with uartIn := t.uartIn }) ∧
    (∀ f, AccessFails s.cfg s.pc 4 f → fetch s = .error f)

/-- R281 to R285: RAM or UART at any alignment, also with rd = x0; or the fatal error. -/
def Obligations.LoadResults : Prop :=
  ∀ (rd rs1 : RegNum) (imm : BitVec 12),
    let loads (f3 : BitVec 3) (i : Instr) (n : Nat) (ext : Nat → Word) : Prop :=
      IsWordOf .i (encodeI imm rs1 f3 rd 0b0000011#7) i ∧ LoadsInto i rd rs1 imm n ext
    loads 0b000 (.lb rd rs1 imm) 1 (fun v => (BitVec.ofNat 8 v).signExtend 32) ∧
    loads 0b001 (.lh rd rs1 imm) 2 (fun v => (BitVec.ofNat 16 v).signExtend 32) ∧
    loads 0b010 (.lw rd rs1 imm) 4 (fun v => BitVec.ofNat 32 v) ∧
    loads 0b100 (.lbu rd rs1 imm) 1 (fun v => (BitVec.ofNat 8 v).zeroExtend 32) ∧
    loads 0b101 (.lhu rd rs1 imm) 2 (fun v => (BitVec.ofNat 16 v).zeroExtend 32)

/-- R287 to R289: the bytes stored in RAM, every other byte as before; or the byte transmitted; or the fatal error. No register changes. -/
def Obligations.StoreResults : Prop :=
  ∀ (rs2 rs1 : RegNum) (imm : BitVec 12),
    let stores (f3 : BitVec 3) (i : Instr) (n : Nat) : Prop :=
      IsWordOf .i (encodeS imm rs2 rs1 f3 0b0100011#7) i ∧ StoresAt i rs2 rs1 imm n
    stores 0b000 (.sb rs2 rs1 imm) 1 ∧ stores 0b001 (.sh rs2 rs1 imm) 2 ∧ stores 0b010 (.sw rs2 rs1 imm) 4

/-- R93: a word stored on the bus, read back by four byte loads, least significant byte first, at any address of RAM. -/
def Obligations.StoredWordReadsBackByBytes : Prop :=
  ∀ (s : State) (a v : Word), InRam s.cfg a 4 → s.cfg.Valid →
    ∃ t, busWrite s a 4 v.toNat = .ok t ∧
      ∀ k, k < 4 → busRead t (a + BitVec.ofNat 32 k) 1 = .ok ((v.extractLsb' (8 * k) 8).toNat, t)

/-- A load of the word just stored returns it (R295), through the instructions SW and LW. -/
def Obligations.LoadAfterStoreReturnsValue : Prop :=
  ∀ (rd rs1 rs2 : RegNum) (imm : BitVec 12) (s t : State), InRam s.cfg (s.reg rs1 + imm.signExtend 32) 4 →
    exec (.sw rs2 rs1 imm) s = .next t →
    ∃ u, exec (.lw rd rs1 imm) t = .next u ∧ u.reg rd = (if rd = 0 then 0 else s.reg rs2)

/-- R102: a word stored at pc is what the next fetch reads. -/
def Obligations.FetchSeesStoredWord : Prop :=
  ∀ (s : State) (w : Word), InRam s.cfg s.pc 4 → ∃ t, busWrite s s.pc 4 w.toNat = .ok t ∧ fetch t = .ok (w, t)

/-- R83, R84, R296: an access outside the map, or past the end of its device, is fatal for every instruction that makes one; and no
instruction is fatal for any other reason. -/
def Obligations.MemoryFaultsExactly : Prop :=
  ∀ (i : Instr) (s : State) (f : Fault),
    exec i s = .fault f ↔ ∃ a n, memOperand i s = some (a, n) ∧ AccessFails s.cfg a n f

/-- R290: a no-op for every value of every field; the other funct3 of its opcode are unmatched. -/
def Obligations.FenceChangesOnlyPc : Prop :=
  (∀ (fm pred succ : BitVec 4) (rs1 rd : RegNum),
    IsWordOf .i (encodeI (fm ++ pred ++ succ) rs1 0b000#3 rd 0b0001111#7) (.fence fm pred succ rs1 rd) ∧
    ∀ s : State, exec (.fence fm pred succ rs1 rd) s = .next { s with pc := s.pc + 4 }) ∧
  (∀ w : Word, opcodeOf w = 0b0001111#7 → funct3Of w ≠ 0 → NoVariantFor w)

/-! ### Traps -/

/-- R521 to R527: what entry leaves, for every trap code of R520 and for the interrupt. That pc is P + 4 where a synchronous trap is
entered, and so mepc = mtval = P + 4, is the spec's own inference (R506, R523). -/
def Obligations.TrapEntryEffects : Prop :=
  (∀ (code : Word) (s : State), code ∈ [3#32, 4#32, 9#32, 10#32, 11#32, 12#32] →
    ∃ t, raiseTrap code s = .next t ∧ TrapsWith (code - 1) s t) ∧
  (∀ s : State, InterruptsTo s (enterInterrupt s))

/-- R310. -/
def Obligations.EcallTraps : Prop :=
  IsWordOf .i 0x00000073#32 .ecall ∧
  ∀ s : State, ∃ t, exec .ecall s = .next t ∧ TrapsWith (BitVec.ofNat 32 (8 + s.priv.toNat)) s t

/-- R311. -/
def Obligations.EbreakTraps : Prop :=
  IsWordOf .i 0x00100073#32 .ebreak ∧ ∀ s : State, ∃ t, exec .ebreak s = .next t ∧ TrapsWith 3 s t

/-- R534, the spec's own inference: after an ECALL at P a handler that leaves mepc and mstatus alone and ends in MRET resumes at P + 4, after
an interrupt at P it resumes at P, in the privilege and with the interrupt enable the hart had. `h` is the state in which the handler's
MRET stands, whatever else the handler has changed; the trap itself keeps the registers and memory the handler finds. -/
def Obligations.TrapThenMretResumes : Prop :=
  (∀ s t : State, exec .ecall s = .next t → (∀ r, t.reg r = s.reg r) ∧ t.mem = s.mem ∧
    ∀ h : State, h.mepc = t.mepc → h.mstatus = t.mstatus →
      ∃ u, exec .mret h = .next u ∧ u.pc = s.pc + 4 ∧ u.priv = s.priv ∧ u.statusMie = s.statusMie ∧
        (∀ r, u.reg r = h.reg r) ∧ u.mem = h.mem) ∧
  (∀ s : State, (∀ r, (enterInterrupt s).reg r = s.reg r) ∧ (enterInterrupt s).mem = s.mem ∧
    ∀ h : State, h.mepc = (enterInterrupt s).mepc → h.mstatus = (enterInterrupt s).mstatus →
      ∃ u, exec .mret h = .next u ∧ u.pc = s.pc ∧ u.priv = s.priv ∧ u.statusMie = s.statusMie ∧
        (∀ r, u.reg r = h.reg r) ∧ u.mem = h.mem)

/-! ### Multiply and divide -/

/-- R320 to R323. -/
def Obligations.MultiplyResults : Prop :=
  ∀ (rd rs1 rs2 : RegNum),
    Computes .m (encodeR 0b0000001#7 rs2 rs1 0b000#3 rd 0b0110011#7) (.mul rd rs1 rs2) rd
      (fun s => BitVec.ofNat 32 ((s.reg rs1).toNat * (s.reg rs2).toNat)) ∧
    Computes .m (encodeR 0b0000001#7 rs2 rs1 0b001#3 rd 0b0110011#7) (.mulh rd rs1 rs2) rd
      (fun s => BitVec.ofInt 32 ((s.reg rs1).toInt * (s.reg rs2).toInt / 2 ^ 32)) ∧
    Computes .m (encodeR 0b0000001#7 rs2 rs1 0b010#3 rd 0b0110011#7) (.mulhsu rd rs1 rs2) rd
      (fun s => BitVec.ofInt 32 ((s.reg rs1).toInt * (s.reg rs2).toNat / 2 ^ 32)) ∧
    Computes .m (encodeR 0b0000001#7 rs2 rs1 0b011#3 rd 0b0110011#7) (.mulhu rd rs1 rs2) rd
      (fun s => BitVec.ofNat 32 ((s.reg rs1).toNat * (s.reg rs2).toNat / 2 ^ 32))

/-- R324 to R327. -/
def Obligations.DivideResults : Prop :=
  ∀ (rd rs1 rs2 : RegNum),
    Computes .m (encodeR 0b0000001#7 rs2 rs1 0b100#3 rd 0b0110011#7) (.div rd rs1 rs2) rd
      (fun s =>
      let a := s.reg rs1; let b := s.reg rs2
      if b = 0 then BitVec.allOnes 32 else if a.toInt = -2 ^ 31 ∧ b.toInt = -1 then BitVec.ofInt 32 (-2 ^ 31)
      else BitVec.ofInt 32 (a.toInt.tdiv b.toInt)) ∧
    Computes .m (encodeR 0b0000001#7 rs2 rs1 0b101#3 rd 0b0110011#7) (.divu rd rs1 rs2) rd
      (fun s =>
      let a := s.reg rs1; let b := s.reg rs2
      if b = 0 then BitVec.allOnes 32 else BitVec.ofNat 32 (a.toNat / b.toNat)) ∧
    Computes .m (encodeR 0b0000001#7 rs2 rs1 0b110#3 rd 0b0110011#7) (.rem rd rs1 rs2) rd
      (fun s =>
      let a := s.reg rs1; let b := s.reg rs2
      if b = 0 then a else if a.toInt = -2 ^ 31 ∧ b.toInt = -1 then 0 else BitVec.ofInt 32 (a.toInt.tmod b.toInt)) ∧
    Computes .m (encodeR 0b0000001#7 rs2 rs1 0b111#3 rd 0b0110011#7) (.remu rd rs1 rs2) rd
      (fun s =>
      let a := s.reg rs1; let b := s.reg rs2
      if b = 0 then a else BitVec.ofNat 32 (a.toNat % b.toNat))

/-- The spec's own inference in R330 (from R324 to R327): the laws that tie quotient and remainder, and the two halves of a product, for
the values the instructions write. -/
def Obligations.MultiplyDivideLaws : Prop :=
  ∀ (rd rs1 rs2 : RegNum) (s q r uq ur lo hi uhi : State), rd ≠ 0 →
    exec (.div rd rs1 rs2) s = .next q → exec (.rem rd rs1 rs2) s = .next r →
    exec (.divu rd rs1 rs2) s = .next uq → exec (.remu rd rs1 rs2) s = .next ur →
    exec (.mul rd rs1 rs2) s = .next lo → exec (.mulh rd rs1 rs2) s = .next hi → exec (.mulhu rd rs1 rs2) s = .next uhi →
    let a := s.reg rs1; let b := s.reg rs2
    (b ≠ 0 → ¬ (a = 0x80000000#32 ∧ b = 0xFFFFFFFF#32) →
      a.toInt = b.toInt * (q.reg rd).toInt + (r.reg rd).toInt ∧ (r.reg rd).toInt.natAbs < b.toInt.natAbs ∧
      ((r.reg rd).toInt = 0 ∨ (r.reg rd).toInt.sign = a.toInt.sign)) ∧
    (b ≠ 0 → a.toNat = b.toNat * (uq.reg rd).toNat + (ur.reg rd).toNat ∧ (ur.reg rd).toNat < b.toNat) ∧
    q.reg rd * b + r.reg rd = a ∧ uq.reg rd * b + ur.reg rd = a ∧
    a.toNat * b.toNat = (uhi.reg rd).toNat * 2 ^ 32 + (lo.reg rd).toNat ∧
    a.toInt * b.toInt = (hi.reg rd).toInt * 2 ^ 32 + (lo.reg rd).toNat

/-! ### Atomics -/

/-- R350: LR.W reads the word, reserves address bits 28:0 and keeps priv and wfi; or the fatal error. A word with rs2 not 0 is unmatched. -/
def Obligations.LoadReservedResults : Prop :=
  (∀ (rd rs1 : RegNum) (aq rl : Bool),
    IsWordOf .a (encodeA 0b00010 aq rl 0 rs1 rd) (.lrw rd rs1 aq rl) ∧
    ∀ s : State,
      (Mapped s.cfg (s.reg rs1) 4 → ∃ t v, exec (.lrw rd rs1 aq rl) s = .next t ∧ BusReads s t (s.reg rs1) 4 v ∧
        WritesReg s t rd (BitVec.ofNat 32 v) ∧
        t = { s with regs := t.regs, pc := s.pc + 4, uartIn := t.uartIn, extraflags := (s.extraflags &&& 7) ||| (s.reg rs1 <<< 3) }) ∧
      (∀ f, AccessFails s.cfg (s.reg rs1) 4 f → exec (.lrw rd rs1 aq rl) s = .fault f)) ∧
  (∀ w : Word, opcodeOf w = 0b0101111#7 → bits w 27 5 = 0b00010#5 → rs2Of w ≠ 0 → NoVariantFor w)

/-- R351: SC.W stores and answers 0 if the reservation matches, or the fatal error; else it answers 1 without an access. The reservation is
cleared either way. -/
def Obligations.StoreConditionalResults : Prop :=
  ∀ (rd rs1 rs2 : RegNum) (aq rl : Bool),
    IsWordOf .a (encodeA 0b00011 aq rl rs2 rs1 rd) (.scw rd rs1 rs2 aq rl) ∧
    ∀ s : State,
      (s.extraflags >>> 3 = s.reg rs1 &&& 0x1FFFFFFF#32 →
        (Mapped s.cfg (s.reg rs1) 4 → ∃ t, exec (.scw rd rs1 rs2 aq rl) s = .next t ∧
          BusWrites s t (s.reg rs1) 4 (s.reg rs2).toNat ∧ WritesReg s t rd 0 ∧
          t = { s with regs := t.regs, pc := s.pc + 4, mem := t.mem, uartOut := t.uartOut, extraflags := s.extraflags &&& 7 }) ∧
        (∀ f, AccessFails s.cfg (s.reg rs1) 4 f → exec (.scw rd rs1 rs2 aq rl) s = .fault f)) ∧
      (s.extraflags >>> 3 ≠ s.reg rs1 &&& 0x1FFFFFFF#32 →
        ∃ t, exec (.scw rd rs1 rs2 aq rl) s = .next t ∧ WritesReg s t rd 1 ∧
          t = { s with regs := t.regs, pc := s.pc + 4, extraflags := s.extraflags &&& 7 })

/-- R355 to R364: the old word goes to rd and the new one to memory, both over the bus; x[rs2] is read before rd is written. That the write
cannot fail once the read succeeded is the spec's own inference (R355). -/
def Obligations.AmoResults : Prop :=
  ∀ (rd rs1 rs2 : RegNum) (aq rl : Bool) (f5 : BitVec 5) (i : Instr) (op : Word → Word → Word),
    (f5, i, op) ∈ amoTable rd rs1 rs2 aq rl →
    IsWordOf .a (encodeA f5 aq rl rs2 rs1 rd) i ∧
    ∀ s : State,
      (Mapped s.cfg (s.reg rs1) 4 → ∃ (t : State) (old : Word), exec i s = .next t ∧ BusReads s t (s.reg rs1) 4 old.toNat ∧
        BusWrites s t (s.reg rs1) 4 (op old (s.reg rs2)).toNat ∧ WritesReg s t rd old ∧
        t = { s with regs := t.regs, pc := s.pc + 4, mem := t.mem, uartIn := t.uartIn, uartOut := t.uartOut }) ∧
      (∀ f, AccessFails s.cfg (s.reg rs1) 4 f → exec i s = .fault f)

/-- R365: aq and rl do not matter to any atomic, in the word or in its effect; and the other words of the opcode are unmatched. -/
def Obligations.AcquireReleaseIgnored : Prop :=
  (∀ (v w : Word) (s : State), opcodeOf w = 0b0101111#7 → (∀ k, k < 32 → k ≠ 25 → k ≠ 26 → v.getLsbD k = w.getLsbD k) →
    (∀ t, runWord v s = .next t ↔ runWord w s = .next t)) ∧
  (∀ w : Word, opcodeOf w = 0b0101111#7 →
    (funct3Of w ≠ 2 ∨ bits w 27 5 ∉ [0b00010#5, 0b00011#5, 0b00001#5, 0b00000#5, 0b00100#5, 0b01100#5, 0b01000#5, 0b10000#5, 0b10100#5,
      0b11000#5, 0b11100#5]) → NoVariantFor w)

/-- R352: only LR.W and SC.W write the reservation field. -/
def Obligations.ReservationWrittenOnlyByLrSc : Prop :=
  (∀ (i : Instr) (s t : State), (∀ rd rs1 aq rl, i ≠ .lrw rd rs1 aq rl) → (∀ rd rs1 rs2 aq rl, i ≠ .scw rd rs1 rs2 aq rl) →
    exec i s = .next t → t.resv = s.resv) ∧
  (∀ s : State, (beginStep s).resv = s.resv) ∧ (∀ s : State, (enterInterrupt s).resv = s.resv) ∧
  (∀ s t : State, illegalInstruction s = .next t → t.resv = s.resv)

/-! ### CSR instructions, MRET, WFI -/

/-- R393, R400 to R405: a legal access reads the old value into rd and, if it attempts a write, stores the new one; nothing else changes. -/
def Obligations.CsrAccessResults : Prop :=
  ∀ (rd : RegNum) (num : CsrNum) (f : BitVec 5) (s : State) (f3 : BitVec 3) (i : Instr) (wr : Bool) (new : Word → Word),
    (f3, i, wr, new) ∈ csrTable rd num f s →
    IsWordOf .z (encodeI num f f3 rd 0b1110011#7) i ∧
    (∀ c : Csr, s.cfg.csrMap.lookup num = some c → (wr = true → csrReadOnly c = false) →
      ∃ t, exec i s = .next t ∧ WritesReg s t rd (s.csr c) ∧ t.csr c = (if wr then new (s.csr c) else s.csr c) ∧
        (∀ d, d ≠ c → t.csr d = s.csr d) ∧ t.pc = s.pc + 4 ∧ t.extraflags = s.extraflags ∧ t.trap = s.trap ∧
        t.mem = s.mem ∧ t.uartIn = s.uartIn ∧ t.uartOut = s.uartOut ∧ t.elapsedIn = s.elapsedIn ∧
        t.elapsedRest = s.elapsedRest ∧ t.cfg = s.cfg) ∧
    ((s.cfg.csrMap.lookup num = none ∨ (wr = true ∧ ∃ c, s.cfg.csrMap.lookup num = some c ∧ csrReadOnly c = true)) →
      ∃ t, exec i s = .next t ∧ TrapsWith 2 s t)

/-- R390, R391: the default CSR map gives each of the 18 CSRs its number, no other number selects a CSR, and eight CSRs are read-only. -/
def Obligations.DefaultCsrMap : Prop :=
  (∀ (n : CsrNum) (c : Csr), defaultConfig.csrMap.lookup n = some c ↔ (n, c) ∈ [(0x300#12, Csr.mstatus), (0x304#12, .mie),
    (0x305#12, .mtvec), (0x340#12, .mscratch), (0x341#12, .mepc), (0x342#12, .mcause), (0x343#12, .mtval), (0x344#12, .mip),
    (0x7C0#12, .timecmpl), (0x7C1#12, .timecmph), (0xC00#12, .cyclel), (0xC01#12, .timel), (0xC80#12, .cycleh), (0xC81#12, .timeh),
    (0xF11#12, .mvendorid), (0xF12#12, .marchid), (0xF13#12, .mimpid), (0xF14#12, .mhartid)]) ∧
  (∀ c : Csr, csrReadOnly c = true ↔
    c ∈ [Csr.cyclel, .timel, .cycleh, .timeh, .mvendorid, .marchid, .mimpid, .mhartid])

/-- R420: every bit of mstatus and extraflags, and pc; nothing else changes, in every privilege mode. -/
def Obligations.MretReturns : Prop :=
  IsWordOf .z 0x30200073#32 .mret ∧
  ∀ s : State, ∃ t, exec .mret s = .next t ∧ t.pc = s.mepc ∧ t.priv = s.statusMpp ∧ t.waiting = s.waiting ∧ t.resv = s.resv ∧
    t.statusMie = s.statusMpie ∧ t.statusMpie = true ∧ t.statusMpp = 0 ∧
    (∀ k, k < 32 → k ≠ 3 → k ≠ 7 → k ≠ 11 → k ≠ 12 → t.mstatus.getLsbD k = s.mstatus.getLsbD k) ∧
    t = { s with pc := t.pc, mstatus := t.mstatus, extraflags := t.extraflags }

/-- R421: WFI sets wfi, continues at P + 4 and changes nothing else; a step of a waiting hart stops after the timer check while it waits,
and the wait ends when the timer condition holds, whatever mie and mstatus say (with the default TIMER_CMP). -/
def Obligations.WfiSetsWaiting : Prop :=
  IsWordOf .z 0x10500073#32 .wfi ∧
  (∀ s : State, ∃ t, exec .wfi s = .next t ∧ t.extraflags = s.extraflags ||| 4 ∧
    t = { s with pc := s.pc + 4, extraflags := t.extraflags }) ∧
  (∀ s : State, s.waiting = true → s.cfg.timerCmp = .unsigned64 →
    ((beginStep s).waiting = false ↔ s.timecmp ≠ 0 ∧ (s.time + s.elapsed.zeroExtend 64).toNat ≥ s.timecmp.toNat) ∧
    ((beginStep s).waiting = true → step s = .next (beginStep s)))

/-- R312, R422: the SYSTEM words with funct3 000 other than ECALL, EBREAK, MRET and WFI are unmatched. -/
def Obligations.OtherSystemWordsUnmatched : Prop :=
  ∀ w : Word, opcodeOf w = 0b1110011#7 → funct3Of w = 0 →
    w ∉ [0x00000073#32, 0x00100073#32, 0x30200073#32, 0x10500073#32] → NoVariantFor w

/-! ### The step -/

/-- A step on four bytes of RAM that decode to an instruction is exec of that instruction, on the state that the timer phase and the
forcing of x0 leave, followed by the cycle counter and the second forcing of x0. -/
def Obligations.StepRunsDecodedInstruction : Prop :=
  ∀ (s : State) (i : Instr),
    let b := beginStep s
    b.waiting = false → interruptTaken b = false → InRam b.cfg b.pc 4 →
    decode b.cfg.extensions
      [b.byteAt b.pc.toNat, b.byteAt (b.pc.toNat + 1), b.byteAt (b.pc.toNat + 2), b.byteAt (b.pc.toNat + 3)] = .ok i →
    (∀ t, exec i b.clearX0 = .next t → step s = .next (endStep t)) ∧
    (∀ f, exec i b.clearX0 = .fault f → step s = .fault f)

/-- R152: a step on a word of RAM that nothing matches is fatal, and takes no trap. -/
def Obligations.UnmatchedWordIsFatal : Prop :=
  ∀ s : State,
    let b := beginStep s
    b.waiting = false → interruptTaken b = false → InRam b.cfg b.pc 4 →
    dispatch b.cfg.extensions (b.wordAt b.pc.toNat) = .error .unmatched →
    step s = .fault (.unmatched (b.wordAt b.pc.toNat))

/-- A fetch outside the map or past the end of its device is fatal (R83, R84, R505). -/
def Obligations.FetchOutsideMapIsFatal : Prop :=
  ∀ (s : State) (f : Fault), (beginStep s).waiting = false → interruptTaken (beginStep s) = false → AccessFails s.cfg s.pc 4 f →
    step s = .fault f

/-- R502: every step that is not fatal advances time by ELAPSED with a true carry. -/
def Obligations.TimeAdvancesByElapsed : Prop :=
  ∀ s t : State, step s = .next t →
    t.timel = s.timel + s.elapsed ∧
    t.timeh = (if s.timel.toNat + s.elapsed.toNat ≥ 2 ^ 32 then s.timeh + 1 else s.timeh)

/-- R503, with the default TIMER_CMP: mip bit 7 is recomputed, the other bits kept, and wfi cleared exactly when the condition holds. -/
def Obligations.TimerPendingRecomputed : Prop :=
  ∀ s : State, s.cfg.timerCmp = .unsigned64 →
    let b := beginStep s
    let holds : Prop := s.timecmp ≠ 0 ∧ (s.time + s.elapsed.zeroExtend 64).toNat ≥ s.timecmp.toNat
    (b.timerPending = true ↔ holds) ∧ (∀ k, k < 32 → k ≠ 7 → b.mip.getLsbD k = s.mip.getLsbD k) ∧
    (b.waiting = true ↔ s.waiting = true ∧ ¬ holds) ∧ b.priv = s.priv ∧ b.resv = s.resv

/-- D17 (b): the lexicographic comparison is the unsigned 64-bit one; and D17 (a) differs from it, at the value D17 names. -/
def Obligations.TimerComparisonsRelated : Prop :=
  (∀ a b : BitVec 64, timerReached .lexicographic a b = timerReached .unsigned64 a b) ∧
  (∀ a b : BitVec 64, timerReached .componentwise a b = true → timerReached .unsigned64 a b = true) ∧
  timerReached .unsigned64 0x100000000#64 0xFFFFFFFF#64 = true ∧
  timerReached .componentwise 0x100000000#64 0xFFFFFFFF#64 = false

/-- R504: when mip bit 7, as the timer check leaves it, and both enables are set, the step takes the interrupt before the fetch, in every
privilege mode and also out of WFI; in no other case is it taken, so with mstatus.MIE = 0 in no mode (for priv, the spec's own inference). -/
def Obligations.TimerInterruptTaken : Prop :=
  (∀ s : State, (beginStep s).timerPending = true → s.mie.getLsbD 7 = true → s.mstatus.getLsbD 3 = true →
    ∃ t, step s = .next t ∧ InterruptsTo (beginStep s) { t with regs := s.regs, cyclel := s.cyclel, cycleh := s.cycleh } ∧
      t.mepc = s.pc ∧ t.pc = s.mtvec ∧ t.waiting = false ∧ (∀ r, t.reg r = s.reg r) ∧ t.mem = s.mem ∧ t.cycle = s.cycle + 1) ∧
  (∀ s : State, interruptTaken (beginStep s) = true ↔
    (beginStep s).timerPending = true ∧ s.mie.getLsbD 7 = true ∧ s.mstatus.getLsbD 3 = true)

/-- R501: a step that still waits after the timer check changes only time and mip bit 7 (and uses up the host's ELAPSED). -/
def Obligations.IdleStepChangesOnlyTimer : Prop :=
  ∀ s : State, s.trap = 0 → (beginStep s).waiting = true →
    ∃ t, step s = .next t ∧ t.time = s.time + s.elapsed.zeroExtend 64 ∧ t.timerPending = false ∧
      (∀ k, k < 32 → k ≠ 7 → t.mip.getLsbD k = s.mip.getLsbD k) ∧
      t = { s with timel := t.timel, timeh := t.timeh, mip := t.mip, elapsedIn := s.elapsedIn.tail }

/-- With timecmp = 0 a waiting hart waits for ever: it takes idle steps, without a fetch and without counting a cycle (R421). -/
def Obligations.WfiWithTimerOffWaitsForever : Prop :=
  ∀ (k : Nat) (s : State), s.waiting = true → s.timecmp = 0 →
    ∃ t, Sys2Proof.core.run k s = .next t ∧ t.waiting = true ∧ t.pc = s.pc ∧ t.cycle = s.cycle ∧ t.regs = s.regs ∧ t.mem = s.mem

/-- R511: the cycle counter advances by 1 in every step but the idle and the fatal ones. -/
def Obligations.CycleCountsSteps : Prop :=
  ∀ s t : State, step s = .next t →
    t.cycle = if (beginStep s).waiting = true then s.cycle else s.cycle + 1

/-- R31, R507: x0 reads 0 and a write to it has no effect; after every step its storage is 0 again. -/
def Obligations.X0IsZeroAfterEveryStep : Prop :=
  (∀ (s : State) (v : Word) (r : RegNum), s.reg 0 = 0 ∧ (s.setReg 0 v).reg r = s.reg r) ∧
  (∀ s t : State, s.regs[0] = 0 → step s = .next t → t.reg 0 = 0 ∧ t.regs[0] = 0)

/-- R49: the identity CSRs, and the whole configuration, are the same after every step as before it, and at reset as configured. -/
def Obligations.ConfigurationNeverChanges : Prop :=
  (∀ s t : State, step s = .next t → t.cfg = s.cfg ∧
    ∀ c ∈ [Csr.mvendorid, .marchid, .mimpid, .mhartid], t.csr c = s.csr c) ∧
  (∀ (c : Config) (x : Vector Word 32) (m : Memory), (State.resetFrom c x m).cfg = c ∧
    (State.resetFrom c x m).csr .mvendorid = c.mvendorid ∧ (State.resetFrom c x m).csr .marchid = c.marchid ∧
    (State.resetFrom c x m).csr .mimpid = c.mimpid ∧ (State.resetFrom c x m).csr .mhartid = c.mhartid)

/-- The counters are not writable by an instruction (R46, R47), nor are the host's ELAPSED values. -/
def Obligations.InstructionsKeepCounters : Prop :=
  ∀ (i : Instr) (s t : State), exec i s = .next t →
    t.time = s.time ∧ t.cycle = s.cycle ∧ t.elapsedIn = s.elapsedIn ∧ t.elapsedRest = s.elapsedRest

/-- priv changes only by a trap, to 3, and by MRET, to MPP; and wfi is set only by WFI (R41, R42, R545). -/
def Obligations.PrivilegeChangesOnlyByTrapOrMret : Prop :=
  ∀ (i : Instr) (s t : State), exec i s = .next t →
    (t.priv = s.priv ∨ (t.priv = 3 ∧ t.pc = s.mtvec ∧ t.mepc = s.pc + 4 ∧ t.statusMpp = s.priv) ∨
      (i = .mret ∧ t.priv = s.statusMpp)) ∧
    (t.waiting = s.waiting ∨ (i = .wfi ∧ t.waiting = true))

/-- R26: no step is refused; it answers a next state or is fatal. -/
def Obligations.NoStepIsRefused : Prop := ∀ (s : State) (r : Refusal), step s ≠ .refused r

/-- Every step keeps the invariant: RAM canonical and inside the DRAM range, no pending trap signal, x0's storage 0. -/
def Obligations.StepKeepsInv : Prop := ∀ s t : State, s.Inv → step s = .next t → t.Inv

/-- The invariant holds after reset, whatever the configuration, the registers and the contents of RAM (any canonical list of cells in the
DRAM range); `State.reset` is the case of the values that log entries 1 to 3 name. -/
def Obligations.ResetHasInv : Prop :=
  State.reset.Inv ∧
  ∀ (c : Config) (x : Vector Word 32) (m : Memory), m.wf →
    (∀ cell ∈ m, c.dramBase.toNat ≤ cell.1 ∧ cell.1 < c.dramBase.toNat + c.dramSize) → (State.resetFrom c x m).Inv

/-- R600: what reset leaves, for every configuration and every value `x`, `m` of what it leaves open. -/
def Obligations.ResetValues : Prop :=
  ∀ (c : Config) (x : Vector Word 32) (m : Memory),
    let s := State.resetFrom c x m
    s.pc = c.dramBase ∧ s.reg 0 = 0 ∧ s.reg 2 = BitVec.ofNat 32 (c.dramBase.toNat + c.dramSize) ∧
    (∀ r : RegNum, r ≠ 0 → r ≠ 2 → s.reg r = x[r.toNat]'r.isLt) ∧
    s.csr .mvendorid = c.mvendorid ∧ s.csr .marchid = c.marchid ∧ s.csr .mimpid = c.mimpid ∧ s.csr .mhartid = c.mhartid ∧
    (∀ d, d ∉ [Csr.mvendorid, .marchid, .mimpid, .mhartid] → s.csr d = 0) ∧ s.extraflags = 0 ∧ s.mem = m ∧ s.trap = 0

/-! ### The host -/

/-- R611: byte i of an image that fits is loaded at DRAM_BASE + i, and nothing else changes; a longer image ends in a fatal error. -/
def Obligations.LoaderPlacesImage : Prop :=
  ∀ (image : List Byte) (s : State), s.cfg.Valid →
    (image.length ≤ s.cfg.dramSize →
      ∃ t, hostLoad image s = .next t ∧ (∀ (k : Nat) (h : k < image.length), t.byteAt (s.cfg.dramBase.toNat + k) = image[k]) ∧
        (∀ b, b < s.cfg.dramBase.toNat ∨ s.cfg.dramBase.toNat + image.length ≤ b → t.byteAt b = s.byteAt b) ∧
        t = { s with mem := t.mem }) ∧
    (s.cfg.dramSize < image.length →
      hostLoad image s = .fault (.noPeripheral (s.cfg.dramBase + BitVec.ofNat 32 s.cfg.dramSize)))

/-- R630, R635: how a run ends; the default condition is that pc lies in the DRAM range. In each of the three ends the condition held in
every earlier state of the run (`held`), the first included. That the condition is checked before the first step, and not again when the
bound is used up, is the model's choice (log entry 17). -/
def Obligations.RunEndsInThreeWays : Prop :=
  (∀ (cont : State → Bool) (bound : Nat) (s : State),
    let held (k : Nat) : Prop := ∀ j, j < k → ∃ u : State, Sys2Proof.core.run j s = .next u ∧ cont u = true
    (∃ f k, hostRun cont bound s = .fatal f ∧ k < bound ∧ Sys2Proof.core.run (k + 1) s = .fault f ∧ held (k + 1)) ∨
    (∃ (t : State) (k : Nat), hostRun cont bound s = .left t ∧ cont t = false ∧ k < bound ∧ Sys2Proof.core.run k s = .next t ∧ held k) ∨
    (∃ t : State, hostRun cont bound s = .stopped t ∧ Sys2Proof.core.run bound s = .next t ∧ held bound)) ∧
  (∀ s : State, continueInDram s = true ↔
    s.cfg.dramBase.toNat ≤ s.pc.toNat ∧ s.pc.toNat < s.cfg.dramBase.toNat + s.cfg.dramSize)
end

