-- ==== Sys2Proof/Laws/Memory.lean ====
section
/-! SUPPORT. The laws of RAM: a byte read after a byte write, the little-endian accesses, and that every write keeps the canonical form. -/

namespace Sys2Proof.Machine

/-! ### One byte -/

theorem memByte_memErase (m : Memory) (a b : Nat) :
    memByte (memErase m a) b = if b = a then unlistedByte else memByte m b := by
  induction m with
  | nil => simp [memErase, memByte]
  | cons c m ih =>
    obtain ⟨k, x⟩ := c
    unfold memErase at ih ⊢
    by_cases hk : k = a
    · subst hk
      simp only [List.filter_cons, bne_self_eq_false, Bool.false_eq_true, if_false, ih, memByte]
      by_cases hb : b = k
      · simp [hb]
      · simp [hb, Ne.symm hb]
    · have : (k != a) = true := by simpa using hk
      simp only [List.filter_cons, this, if_true, memByte, ih]
      by_cases hb : b = a
      · subst hb; simp [hk]
      · simp [hb]

theorem memByte_memInsert (m : Memory) (a b : Nat) (x : Byte) :
    memByte (memInsert m a x) b = if b = a then x else memByte m b := by
  induction m with
  | nil => simp [memInsert, memByte, eq_comm]
  | cons c m ih =>
    obtain ⟨k, y⟩ := c
    unfold memInsert
    split
    · simp [memByte, eq_comm]
    · split
      · rename_i h; subst h
        by_cases hb : b = a
        · simp [memByte, hb]
        · simp [memByte, hb, Ne.symm hb]
      · rename_i h1 h2
        simp only [memByte, ih]
        by_cases hb : b = a
        · subst hb; simp [Ne.symm h2]
        · simp [hb]

/-- A byte read after a byte write, for every memory. -/
theorem memByte_memSet (m : Memory) (a b : Nat) (x : Byte) :
    memByte (memSet m a x) b = if b = a then x else memByte m b := by
  unfold memSet
  split
  · rename_i h; rw [memByte_memErase, h]
  · exact memByte_memInsert ..

/-! ### The canonical form -/

theorem mem_memErase {m : Memory} {a : Nat} {c : Host.Cell} (h : c ∈ memErase m a) : c ∈ m :=
  (List.mem_filter.mp h).1

theorem mem_memInsert {m : Memory} {a : Nat} {x : Byte} {c : Host.Cell} (h : c ∈ memInsert m a x) : c = (a, x) ∨ c ∈ m := by
  induction m with
  | nil => simpa [memInsert] using h
  | cons d m ih =>
    obtain ⟨k, y⟩ := d
    unfold memInsert at h
    split at h
    · simpa using h
    · split at h
      · rcases List.mem_cons.mp h with h | h
        · exact .inl h
        · exact .inr (List.mem_cons_of_mem _ h)
      · rcases List.mem_cons.mp h with h | h
        · exact .inr (h ▸ List.mem_cons_self)
        · exact (ih h).imp id (List.mem_cons_of_mem _)

/-- Every cell after a byte write is the written one or an old one. -/
theorem mem_memSet {m : Memory} {a : Nat} {x : Byte} {c : Host.Cell} (h : c ∈ memSet m a x) : c = (a, x) ∨ c ∈ m := by
  unfold memSet at h
  split at h
  · exact .inr (mem_memErase h)
  · exact mem_memInsert h

theorem wf_memErase {m : Memory} (h : m.wf) (a : Nat) : (memErase m a).wf :=
  ⟨h.1.filter _, fun c hc => h.2 c (mem_memErase hc)⟩

theorem pairwise_memInsert {m : Memory} (h : m.Pairwise (fun c d => c.1 < d.1)) (a : Nat) (x : Byte) :
    (memInsert m a x).Pairwise (fun c d => c.1 < d.1) := by
  induction m with
  | nil => simp [memInsert]
  | cons d m ih =>
    obtain ⟨k, y⟩ := d
    have hk : ∀ c ∈ m, k < c.1 := (List.pairwise_cons.mp h).1
    have hm := (List.pairwise_cons.mp h).2
    unfold memInsert
    split
    · rename_i hlt
      refine List.pairwise_cons.mpr ⟨fun c hc => ?_, h⟩
      rcases List.mem_cons.mp hc with rfl | hc
      · exact hlt
      · exact Nat.lt_trans hlt (hk c hc)
    · split
      · rename_i heq; subst heq
        exact List.pairwise_cons.mpr ⟨hk, hm⟩
      · rename_i h1 h2
        refine List.pairwise_cons.mpr ⟨fun c hc => ?_, ih hm⟩
        rcases mem_memInsert hc with rfl | hc
        · show k < a; omega
        · exact hk c hc

/-- A byte write keeps the canonical form. -/
theorem wf_memSet {m : Memory} (h : m.wf) (a : Nat) (x : Byte) : (memSet m a x).wf := by
  unfold memSet
  split
  · exact wf_memErase h a
  · rename_i hx
    refine ⟨pairwise_memInsert h.1 a x, fun c hc => ?_⟩
    rcases mem_memInsert hc with rfl | hc
    · exact hx
    · exact h.2 c hc

/-! ### Little-endian accesses of `n` bytes (spec/20_memory.md R91 to R93) -/

theorem ramRead_lt (m : Memory) (a n : Nat) : ramRead m a n < 256 ^ n := by
  induction n generalizing a with
  | zero => simp [ramRead]
  | succ n ih =>
    have h := ih (a + 1)
    have hb := (memByte m a).isLt
    unfold ramRead
    rw [Nat.pow_succ]
    omega

/-- The bytes of an `n`-byte write, and every other byte. -/
theorem memByte_ramWrite (m : Memory) (a n v b : Nat) :
    memByte (ramWrite m a n v) b =
      if a ≤ b ∧ b < a + n then BitVec.ofNat 8 (v / 256 ^ (b - a)) else memByte m b := by
  induction n generalizing m a v with
  | zero => simp [ramWrite]
  | succ n ih =>
    unfold ramWrite
    rw [ih, memByte_memSet]
    by_cases h : b = a
    · subst h; simp
    · by_cases h2 : a + 1 ≤ b ∧ b < a + 1 + n
      · rw [if_pos h2, if_pos (by omega)]
        have : b - a = (b - (a + 1)) + 1 := by omega
        rw [this, Nat.pow_succ, Nat.mul_comm, Nat.div_div_eq_div_mul]
      · rw [if_neg h2, if_neg h, if_neg (by omega)]

/-- Two memories with the same bytes in a range read the same there. -/
theorem ramRead_congr {m m' : Memory} {a n : Nat} (h : ∀ b, a ≤ b → b < a + n → memByte m b = memByte m' b) :
    ramRead m a n = ramRead m' a n := by
  induction n generalizing a with
  | zero => rfl
  | succ n ih =>
    unfold ramRead
    rw [h a (by omega) (by omega), ih (fun b h1 h2 => h b (by omega) (by omega))]

/-- An `n`-byte read after an `n`-byte write at the same address gives the value's low `n` bytes. -/
theorem ramRead_ramWrite (m : Memory) (a n v : Nat) : ramRead (ramWrite m a n v) a n = v % 256 ^ n := by
  induction n generalizing m a v with
  | zero => simp [ramRead, Nat.mod_one]
  | succ n ih =>
    have hb : memByte (ramWrite m a (n + 1) v) a = BitVec.ofNat 8 v := by
      rw [memByte_ramWrite, if_pos (by omega)]; simp
    have hr : ramRead (ramWrite m a (n + 1) v) (a + 1) n = v / 256 % 256 ^ n := by
      rw [ramWrite]; exact ih ..
    rw [ramRead, hb, hr, BitVec.toNat_ofNat, show 256 ^ (n + 1) = 256 * 256 ^ n by rw [Nat.pow_succ, Nat.mul_comm], Nat.mod_mul]

/-- A write of any width keeps the canonical form. -/
theorem wf_ramWrite {m : Memory} (h : m.wf) (a n v : Nat) : (ramWrite m a n v).wf := by
  induction n generalizing m a v with
  | zero => exact h
  | succ n ih => exact ih (wf_memSet h _ _) _ _

/-- Every cell after a write lies in the written range or was there before. -/
theorem mem_ramWrite {m : Memory} {a n v : Nat} {c : Host.Cell} (h : c ∈ ramWrite m a n v) :
    (a ≤ c.1 ∧ c.1 < a + n) ∨ c ∈ m := by
  induction n generalizing m a v with
  | zero => exact .inr h
  | succ n ih =>
    rcases ih h with h | h
    · exact .inl (by omega)
    · rcases mem_memSet h with rfl | h
      · exact .inl ⟨Nat.le_refl a, by show a < a + (n + 1); omega⟩
      · exact .inr h

end Sys2Proof.Machine
end

