-- ==== Sys2Proof/Laws/Bus.lean ====
section
/-! SUPPORT. What an access of the bus can answer, by where its address lies, and what a bus read and a bus write leave unchanged
(spec/20_memory.md R82 to R92, R111 to R115). -/

namespace Sys2Proof.Machine

/-! ### Routing -/

theorem access_ram {c : Config} {a : Word} {n : Nat} (h : InRam c a n) : access c a n = .ok .ram := by
  obtain ⟨hu, hd, hn, he⟩ := h
  have hr : c.dramBase.toNat ≤ a.toNat ∧ a.toNat < c.dramBase.toNat + c.dramSize := by omega
  unfold access route
  rw [if_neg hu, if_pos hr]
  exact if_pos he

theorem access_uart {c : Config} {a : Word} {n : Nat} (h : InUart c a n) : access c a n = .ok .uart := by
  obtain ⟨hd, hn, he⟩ := h
  have hr : c.uartBase.toNat ≤ a.toNat ∧ a.toNat < c.uartBase.toNat + c.uartSize := by omega
  unfold access route
  rw [if_pos hr]
  exact if_pos he

theorem access_unmapped {c : Config} {a : Word} (h : Unmapped c a) (n : Nat) : access c a n = .error (.noPeripheral a) := by
  unfold access route
  rw [if_neg h.1, if_neg h.2]

/-- An accepted access lies wholly in its device. -/
theorem access_ok {c : Config} {a : Word} {n : Nat} {d : Device} (h : access c a n = .ok d) :
    a.toNat + n ≤ deviceEnd c d ∧
      ((d = .uart ∧ c.uartBase.toNat ≤ a.toNat ∧ a.toNat < c.uartBase.toNat + c.uartSize) ∨
       (d = .ram ∧ c.dramBase.toNat ≤ a.toNat ∧ a.toNat < c.dramBase.toNat + c.dramSize)) := by
  unfold access route at h
  split at h
  · cases h
  · rename_i d' hd
    split at h
    · rename_i hle
      cases h
      refine ⟨hle, ?_⟩
      split at hd
      · rename_i hu; cases hd; exact .inl ⟨rfl, hu⟩
      · split at hd
        · rename_i hr; cases hd; exact .inr ⟨rfl, hr⟩
        · cases hd
    · cases h

/-! ### Reads -/

theorem busRead_ram {s : State} {a : Word} {n : Nat} (h : InRam s.cfg a n) :
    busRead s a n = .ok (ramRead s.mem a.toNat n, s) := by
  unfold busRead; rw [access_ram h]

theorem busRead_uart {s : State} {a : Word} {n : Nat} (h : InUart s.cfg a n) :
    busRead s a n = .ok (uartRead s (a.toNat - s.cfg.uartBase.toNat)) := by
  unfold busRead; rw [access_uart h]

/-- A UART read changes the input stream at most. -/
theorem uartRead_frame (s : State) (off : Nat) :
    (uartRead s off).2 = { s with uartIn := (uartRead s off).2.uartIn } := by
  unfold uartRead
  split
  · split <;> rfl
  · split <;> rfl

/-- A UART read as the statements say it. -/
theorem uartRead_eq (s : State) (off : Nat) :
    uartRead s off = ((uartByte s off).toNat, { s with uartIn := uartInAfter s off }) := by
  unfold uartRead uartByte uartInAfter
  split
  · rcases h : s.uartIn with _ | ⟨c, r⟩
    · simp only [List.headD_nil, List.tail_nil, BitVec.ofNat_eq_ofNat, BitVec.toNat_ofNat, Nat.zero_mod]; rw [← h]
    · simp
  · split
    · cases h : s.uartIn <;> simp <;> rw [← h]
    · simp

/-- A bus read changes the UART input stream at most. -/
theorem busRead_frame {s s' : State} {a : Word} {n v : Nat} (h : busRead s a n = .ok (v, s')) :
    s' = { s with uartIn := s'.uartIn } := by
  unfold busRead at h
  split at h
  · cases h
  · injection h with h
    have h2 : (uartRead s (a.toNat - s.cfg.uartBase.toNat)).2 = s' := congrArg Prod.snd h
    rw [← h2]; exact uartRead_frame ..
  · cases h; rfl

/-- A bus read fails exactly as its access does. -/
theorem busRead_error {s : State} {a : Word} {n : Nat} {f : Fault} (h : busRead s a n = .error f) :
    access s.cfg a n = .error f := by
  unfold busRead at h
  split at h
  · cases h; assumption
  · cases h
  · cases h

/-! ### Writes -/

theorem busWrite_ram {s : State} {a : Word} {n v : Nat} (h : InRam s.cfg a n) :
    busWrite s a n v = .ok { s with mem := ramWrite s.mem a.toNat n v } := by
  unfold busWrite; rw [access_ram h]

theorem busWrite_uart {s : State} {a : Word} {n v : Nat} (h : InUart s.cfg a n) :
    busWrite s a n v = .ok (uartWrite s (a.toNat - s.cfg.uartBase.toNat) v) := by
  unfold busWrite; rw [access_uart h]

/-- Everything a bus write can do: RAM at the written bytes, or the UART output stream. -/
theorem busWrite_cases {s s' : State} {a : Word} {n v : Nat} (h : busWrite s a n v = .ok s') :
    (s' = { s with mem := ramWrite s.mem a.toNat n v } ∧ s.cfg.dramBase.toNat ≤ a.toNat ∧
      a.toNat + n ≤ s.cfg.dramBase.toNat + s.cfg.dramSize) ∨
    s' = { s with uartOut := s'.uartOut } := by
  unfold busWrite at h
  split at h
  · cases h
  · cases h
    refine .inr ?_
    unfold uartWrite
    split <;> rfl
  · rename_i ha
    cases h
    have h := access_ok ha
    rcases h with ⟨he, ⟨hd, -⟩ | ⟨-, hr⟩⟩
    · cases hd
    · exact .inl ⟨rfl, hr.1, he⟩

theorem busWrite_frame {s s' : State} {a : Word} {n v : Nat} (h : busWrite s a n v = .ok s') :
    s' = { s with mem := s'.mem, uartOut := s'.uartOut } := by
  rcases busWrite_cases h with ⟨h, -⟩ | h
  · rw [h]
  · rw [h]

theorem busWrite_error {s : State} {a : Word} {n v : Nat} {f : Fault} (h : busWrite s a n v = .error f) :
    access s.cfg a n = .error f := by
  unfold busWrite at h
  split at h
  · cases h; assumption
  · cases h
  · cases h

/-- A bus write keeps RAM in its canonical form and inside the DRAM range. -/
theorem busWrite_mem {s s' : State} {a : Word} {n v : Nat} (h : busWrite s a n v = .ok s') (hw : s.mem.wf)
    (hr : s.ramInRange) : s'.mem.wf ∧ s'.ramInRange := by
  rcases busWrite_cases h with ⟨rfl, h1, h2⟩ | h
  · refine ⟨wf_ramWrite hw _ _ _, fun c hc => ?_⟩
    rcases mem_ramWrite hc with hc | hc
    · dsimp only; omega
    · exact hr c hc
  · rw [h]; exact ⟨hw, hr⟩

/-! ### Words of RAM -/

theorem ramRead_one (m : Memory) (a : Nat) : ramRead m a 1 = (memByte m a).toNat := by simp [ramRead]

/-- The sum of R91 is what a RAM read of `n` bytes returns. -/
theorem ramRead_eq_leValue (s : State) (n a : Nat) : ramRead s.mem a n = s.leValue a n := by
  induction n generalizing a with
  | zero => rfl
  | succ n ih =>
    unfold ramRead State.leValue
    rw [ih, List.range_succ_eq_map, List.map_cons, List.sum_cons]
    unfold State.leValue State.byteAt
    rw [← List.sum_map_mul_left, List.map_map]
    simp only [Nat.mul_zero, Nat.pow_zero, Nat.mul_one, Nat.add_zero]
    congr 2
    refine List.map_congr_left fun k _ => ?_
    simp only [Function.comp, Nat.mul_add, Nat.pow_add, Nat.succ_eq_add_one, Nat.add_assoc, Nat.add_comm 1 k]
    ring

/-- Four bytes of RAM as a word (spec/20_memory.md R91). -/
theorem ofNat_ramRead_four (s : State) (a : Nat) : BitVec.ofNat 32 (ramRead s.mem a 4) = s.wordAt a := by
  apply BitVec.eq_of_toNat_eq
  unfold State.wordAt State.byteAt ramRead ramRead ramRead ramRead ramRead
  simp only [BitVec.toNat_ofNat, BitVec.toNat_append]
  have h0 := (memByte s.mem a).isLt
  have h1 := (memByte s.mem (a + 1)).isLt
  have h2 := (memByte s.mem (a + 2)).isLt
  have h3 := (memByte s.mem (a + 3)).isLt
  simp only [Nat.add_assoc, Nat.reduceAdd, Nat.shiftLeft_eq]
  rw [Nat.or_comm, ← Nat.shiftLeft_eq, Nat.or_comm, ← Nat.shiftLeft_add_eq_or_of_lt h0]
  rw [← Nat.shiftLeft_eq, ← Nat.shiftLeft_add_eq_or_of_lt h1, ← Nat.shiftLeft_eq, ← Nat.shiftLeft_add_eq_or_of_lt h2]
  simp only [Nat.shiftLeft_eq]
  omega

/-- One byte of RAM. -/
theorem ofNat_ramRead_one (s : State) (a : Nat) : BitVec.ofNat 8 (ramRead s.mem a 1) = s.byteAt a := by
  rw [ramRead_one, BitVec.ofNat_toNat]; exact BitVec.setWidth_eq _

/-! ### Whole accesses, as the statements say them -/

theorem access_fails {c : Config} {a : Word} {n : Nat} {f : Fault} (hn : 1 ≤ n) (h : AccessFails c a n f) :
    access c a n = .error f := by
  rcases h with ⟨h, rfl⟩ | ⟨h1, h2, rfl⟩
  · exact access_unmapped h n
  · unfold access route
    by_cases hu : c.uartBase.toNat ≤ a.toNat ∧ a.toNat < c.uartBase.toNat + c.uartSize
    · rw [if_pos hu]
      exact if_neg (fun h => h2 (.inr ⟨hu.1, hn, h⟩))
    · rw [if_neg hu]
      by_cases hd : c.dramBase.toNat ≤ a.toNat ∧ a.toNat < c.dramBase.toNat + c.dramSize
      · rw [if_pos hd]
        exact if_neg (fun h => h2 (.inl ⟨hu, hd.1, hn, h⟩))
      · exact absurd ⟨hu, hd⟩ h1

theorem busRead_mapped {s : State} {a : Word} {n : Nat} (h : Mapped s.cfg a n) :
    ∃ t v, busRead s a n = .ok (v, t) ∧ BusReads s t a n v ∧ t = { s with uartIn := t.uartIn } := by
  rcases h with h | h
  · exact ⟨s, _, busRead_ram h, .inl ⟨h, ramRead_eq_leValue _ _ _, rfl⟩, rfl⟩
  · exact ⟨_, _, (busRead_uart h).trans (by rw [uartRead_eq]), .inr ⟨h, rfl, rfl⟩, rfl⟩

theorem busWrite_mapped {s : State} {a : Word} {n : Nat} (h : Mapped s.cfg a n) (v : Nat) :
    ∃ t, busWrite s a n v = .ok t ∧ BusWrites s t a n v ∧ t = { s with mem := t.mem, uartOut := t.uartOut } := by
  rcases h with h | h
  · refine ⟨_, busWrite_ram h, .inl ⟨h, fun k hk => ?_, fun b hb => ?_, rfl⟩, rfl⟩
    · show memByte (ramWrite _ _ _ _) _ = _
      rw [memByte_ramWrite, if_pos (by omega)]
      apply BitVec.eq_of_toNat_eq
      simp [Nat.shiftRight_eq_div_pow, Nat.pow_mul]
    · show memByte (ramWrite _ _ _ _) _ = _
      rw [memByte_ramWrite, if_neg (by omega)]; rfl
  · refine ⟨_, busWrite_uart h, .inr ⟨h, ?_, ?_⟩, ?_⟩ <;> unfold uartWrite <;> split <;> rfl

end Sys2Proof.Machine
end

