-- ==== Sys2Proof/Laws/State.lean ====
section
/-! SUPPORT. One lemma per field per update of State, so that no proof unfolds a record update; and what the register accessor reads after
each update. -/

namespace Sys2Proof.Machine

variable (s : State)

/-! ### setReg -/

@[simp] theorem State.setReg_pc (r : RegNum) (v : Word) : (s.setReg r v).pc = s.pc := by unfold State.setReg; split <;> rfl
@[simp] theorem State.setReg_mstatus (r : RegNum) (v : Word) : (s.setReg r v).mstatus = s.mstatus := by unfold State.setReg; split <;> rfl
@[simp] theorem State.setReg_mie (r : RegNum) (v : Word) : (s.setReg r v).mie = s.mie := by unfold State.setReg; split <;> rfl
@[simp] theorem State.setReg_mip (r : RegNum) (v : Word) : (s.setReg r v).mip = s.mip := by unfold State.setReg; split <;> rfl
@[simp] theorem State.setReg_mtvec (r : RegNum) (v : Word) : (s.setReg r v).mtvec = s.mtvec := by unfold State.setReg; split <;> rfl
@[simp] theorem State.setReg_mscratch (r : RegNum) (v : Word) : (s.setReg r v).mscratch = s.mscratch := by unfold State.setReg; split <;> rfl
@[simp] theorem State.setReg_mepc (r : RegNum) (v : Word) : (s.setReg r v).mepc = s.mepc := by unfold State.setReg; split <;> rfl
@[simp] theorem State.setReg_mcause (r : RegNum) (v : Word) : (s.setReg r v).mcause = s.mcause := by unfold State.setReg; split <;> rfl
@[simp] theorem State.setReg_mtval (r : RegNum) (v : Word) : (s.setReg r v).mtval = s.mtval := by unfold State.setReg; split <;> rfl
@[simp] theorem State.setReg_timecmpl (r : RegNum) (v : Word) : (s.setReg r v).timecmpl = s.timecmpl := by unfold State.setReg; split <;> rfl
@[simp] theorem State.setReg_timecmph (r : RegNum) (v : Word) : (s.setReg r v).timecmph = s.timecmph := by unfold State.setReg; split <;> rfl
@[simp] theorem State.setReg_cyclel (r : RegNum) (v : Word) : (s.setReg r v).cyclel = s.cyclel := by unfold State.setReg; split <;> rfl
@[simp] theorem State.setReg_cycleh (r : RegNum) (v : Word) : (s.setReg r v).cycleh = s.cycleh := by unfold State.setReg; split <;> rfl
@[simp] theorem State.setReg_timel (r : RegNum) (v : Word) : (s.setReg r v).timel = s.timel := by unfold State.setReg; split <;> rfl
@[simp] theorem State.setReg_timeh (r : RegNum) (v : Word) : (s.setReg r v).timeh = s.timeh := by unfold State.setReg; split <;> rfl
@[simp] theorem State.setReg_extraflags (r : RegNum) (v : Word) : (s.setReg r v).extraflags = s.extraflags := by unfold State.setReg; split <;> rfl
@[simp] theorem State.setReg_trap (r : RegNum) (v : Word) : (s.setReg r v).trap = s.trap := by unfold State.setReg; split <;> rfl
@[simp] theorem State.setReg_mem (r : RegNum) (v : Word) : (s.setReg r v).mem = s.mem := by unfold State.setReg; split <;> rfl
@[simp] theorem State.setReg_uartIn (r : RegNum) (v : Word) : (s.setReg r v).uartIn = s.uartIn := by unfold State.setReg; split <;> rfl
@[simp] theorem State.setReg_uartOut (r : RegNum) (v : Word) : (s.setReg r v).uartOut = s.uartOut := by unfold State.setReg; split <;> rfl
@[simp] theorem State.setReg_elapsedIn (r : RegNum) (v : Word) : (s.setReg r v).elapsedIn = s.elapsedIn := by unfold State.setReg; split <;> rfl
@[simp] theorem State.setReg_elapsedRest (r : RegNum) (v : Word) : (s.setReg r v).elapsedRest = s.elapsedRest := by unfold State.setReg; split <;> rfl
@[simp] theorem State.setReg_cfg (r : RegNum) (v : Word) : (s.setReg r v).cfg = s.cfg := by unfold State.setReg; split <;> rfl

/-! ### clearX0 -/

@[simp] theorem State.clearX0_regs : (s.clearX0).regs = s.regs.set 0 0 := rfl
@[simp] theorem State.clearX0_pc : (s.clearX0).pc = s.pc := rfl
@[simp] theorem State.clearX0_mstatus : (s.clearX0).mstatus = s.mstatus := rfl
@[simp] theorem State.clearX0_mie : (s.clearX0).mie = s.mie := rfl
@[simp] theorem State.clearX0_mip : (s.clearX0).mip = s.mip := rfl
@[simp] theorem State.clearX0_mtvec : (s.clearX0).mtvec = s.mtvec := rfl
@[simp] theorem State.clearX0_mscratch : (s.clearX0).mscratch = s.mscratch := rfl
@[simp] theorem State.clearX0_mepc : (s.clearX0).mepc = s.mepc := rfl
@[simp] theorem State.clearX0_mcause : (s.clearX0).mcause = s.mcause := rfl
@[simp] theorem State.clearX0_mtval : (s.clearX0).mtval = s.mtval := rfl
@[simp] theorem State.clearX0_timecmpl : (s.clearX0).timecmpl = s.timecmpl := rfl
@[simp] theorem State.clearX0_timecmph : (s.clearX0).timecmph = s.timecmph := rfl
@[simp] theorem State.clearX0_cyclel : (s.clearX0).cyclel = s.cyclel := rfl
@[simp] theorem State.clearX0_cycleh : (s.clearX0).cycleh = s.cycleh := rfl
@[simp] theorem State.clearX0_timel : (s.clearX0).timel = s.timel := rfl
@[simp] theorem State.clearX0_timeh : (s.clearX0).timeh = s.timeh := rfl
@[simp] theorem State.clearX0_extraflags : (s.clearX0).extraflags = s.extraflags := rfl
@[simp] theorem State.clearX0_trap : (s.clearX0).trap = s.trap := rfl
@[simp] theorem State.clearX0_mem : (s.clearX0).mem = s.mem := rfl
@[simp] theorem State.clearX0_uartIn : (s.clearX0).uartIn = s.uartIn := rfl
@[simp] theorem State.clearX0_uartOut : (s.clearX0).uartOut = s.uartOut := rfl
@[simp] theorem State.clearX0_elapsedIn : (s.clearX0).elapsedIn = s.elapsedIn := rfl
@[simp] theorem State.clearX0_elapsedRest : (s.clearX0).elapsedRest = s.elapsedRest := rfl
@[simp] theorem State.clearX0_cfg : (s.clearX0).cfg = s.cfg := rfl

/-! ### setPc -/

@[simp] theorem State.setPc_regs (p : Word) : (s.setPc p).regs = s.regs := rfl
@[simp] theorem State.setPc_pc (p : Word) : (s.setPc p).pc = p := rfl
@[simp] theorem State.setPc_mstatus (p : Word) : (s.setPc p).mstatus = s.mstatus := rfl
@[simp] theorem State.setPc_mie (p : Word) : (s.setPc p).mie = s.mie := rfl
@[simp] theorem State.setPc_mip (p : Word) : (s.setPc p).mip = s.mip := rfl
@[simp] theorem State.setPc_mtvec (p : Word) : (s.setPc p).mtvec = s.mtvec := rfl
@[simp] theorem State.setPc_mscratch (p : Word) : (s.setPc p).mscratch = s.mscratch := rfl
@[simp] theorem State.setPc_mepc (p : Word) : (s.setPc p).mepc = s.mepc := rfl
@[simp] theorem State.setPc_mcause (p : Word) : (s.setPc p).mcause = s.mcause := rfl
@[simp] theorem State.setPc_mtval (p : Word) : (s.setPc p).mtval = s.mtval := rfl
@[simp] theorem State.setPc_timecmpl (p : Word) : (s.setPc p).timecmpl = s.timecmpl := rfl
@[simp] theorem State.setPc_timecmph (p : Word) : (s.setPc p).timecmph = s.timecmph := rfl
@[simp] theorem State.setPc_cyclel (p : Word) : (s.setPc p).cyclel = s.cyclel := rfl
@[simp] theorem State.setPc_cycleh (p : Word) : (s.setPc p).cycleh = s.cycleh := rfl
@[simp] theorem State.setPc_timel (p : Word) : (s.setPc p).timel = s.timel := rfl
@[simp] theorem State.setPc_timeh (p : Word) : (s.setPc p).timeh = s.timeh := rfl
@[simp] theorem State.setPc_extraflags (p : Word) : (s.setPc p).extraflags = s.extraflags := rfl
@[simp] theorem State.setPc_trap (p : Word) : (s.setPc p).trap = s.trap := rfl
@[simp] theorem State.setPc_mem (p : Word) : (s.setPc p).mem = s.mem := rfl
@[simp] theorem State.setPc_uartIn (p : Word) : (s.setPc p).uartIn = s.uartIn := rfl
@[simp] theorem State.setPc_uartOut (p : Word) : (s.setPc p).uartOut = s.uartOut := rfl
@[simp] theorem State.setPc_elapsedIn (p : Word) : (s.setPc p).elapsedIn = s.elapsedIn := rfl
@[simp] theorem State.setPc_elapsedRest (p : Word) : (s.setPc p).elapsedRest = s.elapsedRest := rfl
@[simp] theorem State.setPc_cfg (p : Word) : (s.setPc p).cfg = s.cfg := rfl

/-! ### setTrap -/

@[simp] theorem State.setTrap_regs (x : Word) : (s.setTrap x).regs = s.regs := rfl
@[simp] theorem State.setTrap_pc (x : Word) : (s.setTrap x).pc = s.pc := rfl
@[simp] theorem State.setTrap_mstatus (x : Word) : (s.setTrap x).mstatus = s.mstatus := rfl
@[simp] theorem State.setTrap_mie (x : Word) : (s.setTrap x).mie = s.mie := rfl
@[simp] theorem State.setTrap_mip (x : Word) : (s.setTrap x).mip = s.mip := rfl
@[simp] theorem State.setTrap_mtvec (x : Word) : (s.setTrap x).mtvec = s.mtvec := rfl
@[simp] theorem State.setTrap_mscratch (x : Word) : (s.setTrap x).mscratch = s.mscratch := rfl
@[simp] theorem State.setTrap_mepc (x : Word) : (s.setTrap x).mepc = s.mepc := rfl
@[simp] theorem State.setTrap_mcause (x : Word) : (s.setTrap x).mcause = s.mcause := rfl
@[simp] theorem State.setTrap_mtval (x : Word) : (s.setTrap x).mtval = s.mtval := rfl
@[simp] theorem State.setTrap_timecmpl (x : Word) : (s.setTrap x).timecmpl = s.timecmpl := rfl
@[simp] theorem State.setTrap_timecmph (x : Word) : (s.setTrap x).timecmph = s.timecmph := rfl
@[simp] theorem State.setTrap_cyclel (x : Word) : (s.setTrap x).cyclel = s.cyclel := rfl
@[simp] theorem State.setTrap_cycleh (x : Word) : (s.setTrap x).cycleh = s.cycleh := rfl
@[simp] theorem State.setTrap_timel (x : Word) : (s.setTrap x).timel = s.timel := rfl
@[simp] theorem State.setTrap_timeh (x : Word) : (s.setTrap x).timeh = s.timeh := rfl
@[simp] theorem State.setTrap_extraflags (x : Word) : (s.setTrap x).extraflags = s.extraflags := rfl
@[simp] theorem State.setTrap_trap (x : Word) : (s.setTrap x).trap = x := rfl
@[simp] theorem State.setTrap_mem (x : Word) : (s.setTrap x).mem = s.mem := rfl
@[simp] theorem State.setTrap_uartIn (x : Word) : (s.setTrap x).uartIn = s.uartIn := rfl
@[simp] theorem State.setTrap_uartOut (x : Word) : (s.setTrap x).uartOut = s.uartOut := rfl
@[simp] theorem State.setTrap_elapsedIn (x : Word) : (s.setTrap x).elapsedIn = s.elapsedIn := rfl
@[simp] theorem State.setTrap_elapsedRest (x : Word) : (s.setTrap x).elapsedRest = s.elapsedRest := rfl
@[simp] theorem State.setTrap_cfg (x : Word) : (s.setTrap x).cfg = s.cfg := rfl

/-! ### setPriv -/

@[simp] theorem State.setPriv_regs (p : BitVec 2) : (s.setPriv p).regs = s.regs := rfl
@[simp] theorem State.setPriv_pc (p : BitVec 2) : (s.setPriv p).pc = s.pc := rfl
@[simp] theorem State.setPriv_mstatus (p : BitVec 2) : (s.setPriv p).mstatus = s.mstatus := rfl
@[simp] theorem State.setPriv_mie (p : BitVec 2) : (s.setPriv p).mie = s.mie := rfl
@[simp] theorem State.setPriv_mip (p : BitVec 2) : (s.setPriv p).mip = s.mip := rfl
@[simp] theorem State.setPriv_mtvec (p : BitVec 2) : (s.setPriv p).mtvec = s.mtvec := rfl
@[simp] theorem State.setPriv_mscratch (p : BitVec 2) : (s.setPriv p).mscratch = s.mscratch := rfl
@[simp] theorem State.setPriv_mepc (p : BitVec 2) : (s.setPriv p).mepc = s.mepc := rfl
@[simp] theorem State.setPriv_mcause (p : BitVec 2) : (s.setPriv p).mcause = s.mcause := rfl
@[simp] theorem State.setPriv_mtval (p : BitVec 2) : (s.setPriv p).mtval = s.mtval := rfl
@[simp] theorem State.setPriv_timecmpl (p : BitVec 2) : (s.setPriv p).timecmpl = s.timecmpl := rfl
@[simp] theorem State.setPriv_timecmph (p : BitVec 2) : (s.setPriv p).timecmph = s.timecmph := rfl
@[simp] theorem State.setPriv_cyclel (p : BitVec 2) : (s.setPriv p).cyclel = s.cyclel := rfl
@[simp] theorem State.setPriv_cycleh (p : BitVec 2) : (s.setPriv p).cycleh = s.cycleh := rfl
@[simp] theorem State.setPriv_timel (p : BitVec 2) : (s.setPriv p).timel = s.timel := rfl
@[simp] theorem State.setPriv_timeh (p : BitVec 2) : (s.setPriv p).timeh = s.timeh := rfl
@[simp] theorem State.setPriv_extraflags (p : BitVec 2) : (s.setPriv p).extraflags = setField s.extraflags 0 p := rfl
@[simp] theorem State.setPriv_trap (p : BitVec 2) : (s.setPriv p).trap = s.trap := rfl
@[simp] theorem State.setPriv_mem (p : BitVec 2) : (s.setPriv p).mem = s.mem := rfl
@[simp] theorem State.setPriv_uartIn (p : BitVec 2) : (s.setPriv p).uartIn = s.uartIn := rfl
@[simp] theorem State.setPriv_uartOut (p : BitVec 2) : (s.setPriv p).uartOut = s.uartOut := rfl
@[simp] theorem State.setPriv_elapsedIn (p : BitVec 2) : (s.setPriv p).elapsedIn = s.elapsedIn := rfl
@[simp] theorem State.setPriv_elapsedRest (p : BitVec 2) : (s.setPriv p).elapsedRest = s.elapsedRest := rfl
@[simp] theorem State.setPriv_cfg (p : BitVec 2) : (s.setPriv p).cfg = s.cfg := rfl

/-! ### setWaiting -/

@[simp] theorem State.setWaiting_regs (b : Bool) : (s.setWaiting b).regs = s.regs := rfl
@[simp] theorem State.setWaiting_pc (b : Bool) : (s.setWaiting b).pc = s.pc := rfl
@[simp] theorem State.setWaiting_mstatus (b : Bool) : (s.setWaiting b).mstatus = s.mstatus := rfl
@[simp] theorem State.setWaiting_mie (b : Bool) : (s.setWaiting b).mie = s.mie := rfl
@[simp] theorem State.setWaiting_mip (b : Bool) : (s.setWaiting b).mip = s.mip := rfl
@[simp] theorem State.setWaiting_mtvec (b : Bool) : (s.setWaiting b).mtvec = s.mtvec := rfl
@[simp] theorem State.setWaiting_mscratch (b : Bool) : (s.setWaiting b).mscratch = s.mscratch := rfl
@[simp] theorem State.setWaiting_mepc (b : Bool) : (s.setWaiting b).mepc = s.mepc := rfl
@[simp] theorem State.setWaiting_mcause (b : Bool) : (s.setWaiting b).mcause = s.mcause := rfl
@[simp] theorem State.setWaiting_mtval (b : Bool) : (s.setWaiting b).mtval = s.mtval := rfl
@[simp] theorem State.setWaiting_timecmpl (b : Bool) : (s.setWaiting b).timecmpl = s.timecmpl := rfl
@[simp] theorem State.setWaiting_timecmph (b : Bool) : (s.setWaiting b).timecmph = s.timecmph := rfl
@[simp] theorem State.setWaiting_cyclel (b : Bool) : (s.setWaiting b).cyclel = s.cyclel := rfl
@[simp] theorem State.setWaiting_cycleh (b : Bool) : (s.setWaiting b).cycleh = s.cycleh := rfl
@[simp] theorem State.setWaiting_timel (b : Bool) : (s.setWaiting b).timel = s.timel := rfl
@[simp] theorem State.setWaiting_timeh (b : Bool) : (s.setWaiting b).timeh = s.timeh := rfl
@[simp] theorem State.setWaiting_extraflags (b : Bool) : (s.setWaiting b).extraflags = setField s.extraflags 2 (BitVec.ofBool b) := rfl
@[simp] theorem State.setWaiting_trap (b : Bool) : (s.setWaiting b).trap = s.trap := rfl
@[simp] theorem State.setWaiting_mem (b : Bool) : (s.setWaiting b).mem = s.mem := rfl
@[simp] theorem State.setWaiting_uartIn (b : Bool) : (s.setWaiting b).uartIn = s.uartIn := rfl
@[simp] theorem State.setWaiting_uartOut (b : Bool) : (s.setWaiting b).uartOut = s.uartOut := rfl
@[simp] theorem State.setWaiting_elapsedIn (b : Bool) : (s.setWaiting b).elapsedIn = s.elapsedIn := rfl
@[simp] theorem State.setWaiting_elapsedRest (b : Bool) : (s.setWaiting b).elapsedRest = s.elapsedRest := rfl
@[simp] theorem State.setWaiting_cfg (b : Bool) : (s.setWaiting b).cfg = s.cfg := rfl

/-! ### setResv -/

@[simp] theorem State.setResv_regs (x : BitVec 29) : (s.setResv x).regs = s.regs := rfl
@[simp] theorem State.setResv_pc (x : BitVec 29) : (s.setResv x).pc = s.pc := rfl
@[simp] theorem State.setResv_mstatus (x : BitVec 29) : (s.setResv x).mstatus = s.mstatus := rfl
@[simp] theorem State.setResv_mie (x : BitVec 29) : (s.setResv x).mie = s.mie := rfl
@[simp] theorem State.setResv_mip (x : BitVec 29) : (s.setResv x).mip = s.mip := rfl
@[simp] theorem State.setResv_mtvec (x : BitVec 29) : (s.setResv x).mtvec = s.mtvec := rfl
@[simp] theorem State.setResv_mscratch (x : BitVec 29) : (s.setResv x).mscratch = s.mscratch := rfl
@[simp] theorem State.setResv_mepc (x : BitVec 29) : (s.setResv x).mepc = s.mepc := rfl
@[simp] theorem State.setResv_mcause (x : BitVec 29) : (s.setResv x).mcause = s.mcause := rfl
@[simp] theorem State.setResv_mtval (x : BitVec 29) : (s.setResv x).mtval = s.mtval := rfl
@[simp] theorem State.setResv_timecmpl (x : BitVec 29) : (s.setResv x).timecmpl = s.timecmpl := rfl
@[simp] theorem State.setResv_timecmph (x : BitVec 29) : (s.setResv x).timecmph = s.timecmph := rfl
@[simp] theorem State.setResv_cyclel (x : BitVec 29) : (s.setResv x).cyclel = s.cyclel := rfl
@[simp] theorem State.setResv_cycleh (x : BitVec 29) : (s.setResv x).cycleh = s.cycleh := rfl
@[simp] theorem State.setResv_timel (x : BitVec 29) : (s.setResv x).timel = s.timel := rfl
@[simp] theorem State.setResv_timeh (x : BitVec 29) : (s.setResv x).timeh = s.timeh := rfl
@[simp] theorem State.setResv_extraflags (x : BitVec 29) : (s.setResv x).extraflags = setField s.extraflags 3 x := rfl
@[simp] theorem State.setResv_trap (x : BitVec 29) : (s.setResv x).trap = s.trap := rfl
@[simp] theorem State.setResv_mem (x : BitVec 29) : (s.setResv x).mem = s.mem := rfl
@[simp] theorem State.setResv_uartIn (x : BitVec 29) : (s.setResv x).uartIn = s.uartIn := rfl
@[simp] theorem State.setResv_uartOut (x : BitVec 29) : (s.setResv x).uartOut = s.uartOut := rfl
@[simp] theorem State.setResv_elapsedIn (x : BitVec 29) : (s.setResv x).elapsedIn = s.elapsedIn := rfl
@[simp] theorem State.setResv_elapsedRest (x : BitVec 29) : (s.setResv x).elapsedRest = s.elapsedRest := rfl
@[simp] theorem State.setResv_cfg (x : BitVec 29) : (s.setResv x).cfg = s.cfg := rfl

/-! ### setTime -/

@[simp] theorem State.setTime_regs (x : BitVec 64) : (s.setTime x).regs = s.regs := rfl
@[simp] theorem State.setTime_pc (x : BitVec 64) : (s.setTime x).pc = s.pc := rfl
@[simp] theorem State.setTime_mstatus (x : BitVec 64) : (s.setTime x).mstatus = s.mstatus := rfl
@[simp] theorem State.setTime_mie (x : BitVec 64) : (s.setTime x).mie = s.mie := rfl
@[simp] theorem State.setTime_mip (x : BitVec 64) : (s.setTime x).mip = s.mip := rfl
@[simp] theorem State.setTime_mtvec (x : BitVec 64) : (s.setTime x).mtvec = s.mtvec := rfl
@[simp] theorem State.setTime_mscratch (x : BitVec 64) : (s.setTime x).mscratch = s.mscratch := rfl
@[simp] theorem State.setTime_mepc (x : BitVec 64) : (s.setTime x).mepc = s.mepc := rfl
@[simp] theorem State.setTime_mcause (x : BitVec 64) : (s.setTime x).mcause = s.mcause := rfl
@[simp] theorem State.setTime_mtval (x : BitVec 64) : (s.setTime x).mtval = s.mtval := rfl
@[simp] theorem State.setTime_timecmpl (x : BitVec 64) : (s.setTime x).timecmpl = s.timecmpl := rfl
@[simp] theorem State.setTime_timecmph (x : BitVec 64) : (s.setTime x).timecmph = s.timecmph := rfl
@[simp] theorem State.setTime_cyclel (x : BitVec 64) : (s.setTime x).cyclel = s.cyclel := rfl
@[simp] theorem State.setTime_cycleh (x : BitVec 64) : (s.setTime x).cycleh = s.cycleh := rfl
@[simp] theorem State.setTime_timel (x : BitVec 64) : (s.setTime x).timel = x.extractLsb' 0 32 := rfl
@[simp] theorem State.setTime_timeh (x : BitVec 64) : (s.setTime x).timeh = x.extractLsb' 32 32 := rfl
@[simp] theorem State.setTime_extraflags (x : BitVec 64) : (s.setTime x).extraflags = s.extraflags := rfl
@[simp] theorem State.setTime_trap (x : BitVec 64) : (s.setTime x).trap = s.trap := rfl
@[simp] theorem State.setTime_mem (x : BitVec 64) : (s.setTime x).mem = s.mem := rfl
@[simp] theorem State.setTime_uartIn (x : BitVec 64) : (s.setTime x).uartIn = s.uartIn := rfl
@[simp] theorem State.setTime_uartOut (x : BitVec 64) : (s.setTime x).uartOut = s.uartOut := rfl
@[simp] theorem State.setTime_elapsedIn (x : BitVec 64) : (s.setTime x).elapsedIn = s.elapsedIn := rfl
@[simp] theorem State.setTime_elapsedRest (x : BitVec 64) : (s.setTime x).elapsedRest = s.elapsedRest := rfl
@[simp] theorem State.setTime_cfg (x : BitVec 64) : (s.setTime x).cfg = s.cfg := rfl

/-! ### setCycle -/

@[simp] theorem State.setCycle_regs (x : BitVec 64) : (s.setCycle x).regs = s.regs := rfl
@[simp] theorem State.setCycle_pc (x : BitVec 64) : (s.setCycle x).pc = s.pc := rfl
@[simp] theorem State.setCycle_mstatus (x : BitVec 64) : (s.setCycle x).mstatus = s.mstatus := rfl
@[simp] theorem State.setCycle_mie (x : BitVec 64) : (s.setCycle x).mie = s.mie := rfl
@[simp] theorem State.setCycle_mip (x : BitVec 64) : (s.setCycle x).mip = s.mip := rfl
@[simp] theorem State.setCycle_mtvec (x : BitVec 64) : (s.setCycle x).mtvec = s.mtvec := rfl
@[simp] theorem State.setCycle_mscratch (x : BitVec 64) : (s.setCycle x).mscratch = s.mscratch := rfl
@[simp] theorem State.setCycle_mepc (x : BitVec 64) : (s.setCycle x).mepc = s.mepc := rfl
@[simp] theorem State.setCycle_mcause (x : BitVec 64) : (s.setCycle x).mcause = s.mcause := rfl
@[simp] theorem State.setCycle_mtval (x : BitVec 64) : (s.setCycle x).mtval = s.mtval := rfl
@[simp] theorem State.setCycle_timecmpl (x : BitVec 64) : (s.setCycle x).timecmpl = s.timecmpl := rfl
@[simp] theorem State.setCycle_timecmph (x : BitVec 64) : (s.setCycle x).timecmph = s.timecmph := rfl
@[simp] theorem State.setCycle_cyclel (x : BitVec 64) : (s.setCycle x).cyclel = x.extractLsb' 0 32 := rfl
@[simp] theorem State.setCycle_cycleh (x : BitVec 64) : (s.setCycle x).cycleh = x.extractLsb' 32 32 := rfl
@[simp] theorem State.setCycle_timel (x : BitVec 64) : (s.setCycle x).timel = s.timel := rfl
@[simp] theorem State.setCycle_timeh (x : BitVec 64) : (s.setCycle x).timeh = s.timeh := rfl
@[simp] theorem State.setCycle_extraflags (x : BitVec 64) : (s.setCycle x).extraflags = s.extraflags := rfl
@[simp] theorem State.setCycle_trap (x : BitVec 64) : (s.setCycle x).trap = s.trap := rfl
@[simp] theorem State.setCycle_mem (x : BitVec 64) : (s.setCycle x).mem = s.mem := rfl
@[simp] theorem State.setCycle_uartIn (x : BitVec 64) : (s.setCycle x).uartIn = s.uartIn := rfl
@[simp] theorem State.setCycle_uartOut (x : BitVec 64) : (s.setCycle x).uartOut = s.uartOut := rfl
@[simp] theorem State.setCycle_elapsedIn (x : BitVec 64) : (s.setCycle x).elapsedIn = s.elapsedIn := rfl
@[simp] theorem State.setCycle_elapsedRest (x : BitVec 64) : (s.setCycle x).elapsedRest = s.elapsedRest := rfl
@[simp] theorem State.setCycle_cfg (x : BitVec 64) : (s.setCycle x).cfg = s.cfg := rfl

/-! ### advance -/

@[simp] theorem advance_regs : (advance s).regs = s.regs := rfl
@[simp] theorem advance_pc : (advance s).pc = s.pc + 4 := rfl
@[simp] theorem advance_mstatus : (advance s).mstatus = s.mstatus := rfl
@[simp] theorem advance_mie : (advance s).mie = s.mie := rfl
@[simp] theorem advance_mip : (advance s).mip = s.mip := rfl
@[simp] theorem advance_mtvec : (advance s).mtvec = s.mtvec := rfl
@[simp] theorem advance_mscratch : (advance s).mscratch = s.mscratch := rfl
@[simp] theorem advance_mepc : (advance s).mepc = s.mepc := rfl
@[simp] theorem advance_mcause : (advance s).mcause = s.mcause := rfl
@[simp] theorem advance_mtval : (advance s).mtval = s.mtval := rfl
@[simp] theorem advance_timecmpl : (advance s).timecmpl = s.timecmpl := rfl
@[simp] theorem advance_timecmph : (advance s).timecmph = s.timecmph := rfl
@[simp] theorem advance_cyclel : (advance s).cyclel = s.cyclel := rfl
@[simp] theorem advance_cycleh : (advance s).cycleh = s.cycleh := rfl
@[simp] theorem advance_timel : (advance s).timel = s.timel := rfl
@[simp] theorem advance_timeh : (advance s).timeh = s.timeh := rfl
@[simp] theorem advance_extraflags : (advance s).extraflags = s.extraflags := rfl
@[simp] theorem advance_trap : (advance s).trap = s.trap := rfl
@[simp] theorem advance_mem : (advance s).mem = s.mem := rfl
@[simp] theorem advance_uartIn : (advance s).uartIn = s.uartIn := rfl
@[simp] theorem advance_uartOut : (advance s).uartOut = s.uartOut := rfl
@[simp] theorem advance_elapsedIn : (advance s).elapsedIn = s.elapsedIn := rfl
@[simp] theorem advance_elapsedRest : (advance s).elapsedRest = s.elapsedRest := rfl
@[simp] theorem advance_cfg : (advance s).cfg = s.cfg := rfl

/-! ### Registers (spec/10_state.md R31) -/

@[simp] theorem State.reg_zero : s.reg 0 = 0 := rfl

/-- A read after a write: x0 reads 0, the written register its new value, any other its old one. -/
theorem State.reg_setReg (r q : RegNum) (v : Word) :
    (s.setReg r v).reg q = if q = 0 then 0 else if q = r then v else s.reg q := by
  by_cases hq : q = 0
  · rw [if_pos hq, hq]; rfl
  rw [if_neg hq]
  by_cases hr : r = 0
  · rw [if_neg (fun e => hq (e.trans hr))]
    unfold State.setReg
    rw [if_pos hr]
  · unfold State.setReg State.reg
    rw [if_neg hq, if_neg hr, if_neg hq]
    by_cases h : q = r
    · subst h; rw [if_pos rfl]; exact Vector.getElem_set_self q.isLt
    · rw [if_neg h]
      exact Vector.getElem_set_ne r.isLt q.isLt (fun e => h (BitVec.eq_of_toNat_eq e.symm))

/-- The storage of x0 is never written by `setReg`. -/
@[simp] theorem State.setReg_regs_zero (r : RegNum) (v : Word) : (s.setReg r v).regs[0] = s.regs[0] := by
  unfold State.setReg
  split
  · rfl
  · rename_i h
    exact Vector.getElem_set_ne r.isLt (by omega) (fun e => h (BitVec.eq_of_toNat_eq (by simpa using e)))

/-- Registers are read from `regs` alone. -/
theorem State.reg_congr {s t : State} (h : s.regs = t.regs) (r : RegNum) : s.reg r = t.reg r := by
  unfold State.reg; rw [h]

@[simp] theorem State.clearX0_reg (r : RegNum) : s.clearX0.reg r = s.reg r := by
  unfold State.reg State.clearX0
  by_cases h : r = 0
  · rw [if_pos h, if_pos h]
  · rw [if_neg h, if_neg h]
    exact Vector.getElem_set_ne (by omega) r.isLt (fun e => h (BitVec.eq_of_toNat_eq (by simpa using e.symm)))

@[simp] theorem State.setPc_reg (p : Word) (r : RegNum) : (s.setPc p).reg r = s.reg r := rfl
@[simp] theorem State.setTrap_reg (x : Word) (r : RegNum) : (s.setTrap x).reg r = s.reg r := rfl
@[simp] theorem State.setPriv_reg (p : BitVec 2) (r : RegNum) : (s.setPriv p).reg r = s.reg r := rfl
@[simp] theorem State.setWaiting_reg (b : Bool) (r : RegNum) : (s.setWaiting b).reg r = s.reg r := rfl
@[simp] theorem State.setResv_reg (x : BitVec 29) (r : RegNum) : (s.setResv x).reg r = s.reg r := rfl
@[simp] theorem State.setTime_reg (x : BitVec 64) (r : RegNum) : (s.setTime x).reg r = s.reg r := rfl
@[simp] theorem State.setCycle_reg (x : BitVec 64) (r : RegNum) : (s.setCycle x).reg r = s.reg r := rfl
@[simp] theorem advance_reg (r : RegNum) : (advance s).reg r = s.reg r := rfl

end Sys2Proof.Machine
end

