-- ==== Sys2Proof/Laws/Words.lean ====
section
/-! SUPPORT. What `setField` does to each bit, and what the fields of mstatus, mip and extraflags read after the operations on them. -/

namespace Sys2Proof.Machine

/-- Bit `k` of a word after one of its fields is replaced. -/
theorem getLsbD_setField (w : Word) (lo : Nat) {n : Nat} (v : BitVec n) (k : Nat) (hk : k < 32) :
    (setField w lo v).getLsbD k = if lo ≤ k ∧ k < lo + n then v.getLsbD (k - lo) else w.getLsbD k := by
  unfold setField
  simp only [BitVec.getLsbD_or, BitVec.getLsbD_and, BitVec.getLsbD_not, BitVec.getLsbD_shiftLeft, BitVec.getLsbD_setWidth,
    BitVec.getLsbD_allOnes, hk, decide_true, Bool.true_and]
  by_cases h1 : lo ≤ k
  · have h0 : ¬ k < lo := by omega
    by_cases h2 : k < lo + n
    · have h3 : k - lo < n := by omega
      have h4 : k - lo < 32 := by omega
      simp [h0, h1, h2, h3, h4]
    · have h3 : ¬ k - lo < n := by omega
      have h4 : v.getLsbD (k - lo) = false := BitVec.getLsbD_of_ge _ _ (by omega)
      simp [h0, h1, h2, h3, h4]
  · have h0 : k < lo := by omega
    simp [h0, h1]

/-- Reading back the field that was replaced. -/
theorem extract_setField_same (w : Word) (lo : Nat) {n : Nat} (v : BitVec n) (h : lo + n ≤ 32) :
    (setField w lo v).extractLsb' lo n = v := by
  apply BitVec.eq_of_getLsbD_eq
  intro k hk
  rw [BitVec.getLsbD_extractLsb', getLsbD_setField _ _ _ _ (by omega)]
  simp [hk]

/-- Reading a field that lies wholly outside the one replaced. -/
theorem extract_setField_other (w : Word) (lo lo' m : Nat) {n : Nat} (v : BitVec n) (h : lo' + m ≤ 32)
    (hd : lo' + m ≤ lo ∨ lo + n ≤ lo') : (setField w lo v).extractLsb' lo' m = w.extractLsb' lo' m := by
  apply BitVec.eq_of_getLsbD_eq
  intro k hk
  rw [BitVec.getLsbD_extractLsb', BitVec.getLsbD_extractLsb', getLsbD_setField _ _ _ _ (by omega)]
  have : ¬ (lo ≤ lo' + k ∧ lo' + k < lo + n) := by omega
  simp [this]

variable (s : State)

@[simp] theorem State.setPriv_priv (p : BitVec 2) : (s.setPriv p).priv = p := extract_setField_same _ _ _ (by omega)
@[simp] theorem State.setPriv_resv (p : BitVec 2) : (s.setPriv p).resv = s.resv :=
  extract_setField_other _ _ _ _ _ (by omega) (by omega)
@[simp] theorem State.setPriv_waiting (p : BitVec 2) : (s.setPriv p).waiting = s.waiting := by
  unfold State.waiting State.setPriv; rw [getLsbD_setField _ _ _ _ (by omega)]; simp
@[simp] theorem State.setWaiting_waiting (b : Bool) : (s.setWaiting b).waiting = b := by
  unfold State.waiting State.setWaiting; rw [getLsbD_setField _ _ _ _ (by omega)]; simp
@[simp] theorem State.setWaiting_priv (b : Bool) : (s.setWaiting b).priv = s.priv :=
  extract_setField_other _ _ _ _ _ (by omega) (by omega)
@[simp] theorem State.setWaiting_resv (b : Bool) : (s.setWaiting b).resv = s.resv :=
  extract_setField_other _ _ _ _ _ (by omega) (by omega)
@[simp] theorem State.setResv_resv (x : BitVec 29) : (s.setResv x).resv = x := extract_setField_same _ _ _ (by omega)
@[simp] theorem State.setResv_priv (x : BitVec 29) : (s.setResv x).priv = s.priv :=
  extract_setField_other _ _ _ _ _ (by omega) (by omega)
@[simp] theorem State.setResv_waiting (x : BitVec 29) : (s.setResv x).waiting = s.waiting := by
  unfold State.waiting State.setResv; rw [getLsbD_setField _ _ _ _ (by omega)]; simp

/-- mstatus at trap entry, bit by bit (spec/60_exceptions.md R525). -/
theorem getLsbD_trapStatus (m : Word) (p : BitVec 2) (k : Nat) (hk : k < 32) :
    (trapStatus m p).getLsbD k =
      if k = 7 then m.getLsbD 3 else if k = 3 then false else if k = 11 then p.getLsbD 0 else if k = 12 then p.getLsbD 1
      else m.getLsbD k := by
  unfold trapStatus
  simp only [getLsbD_setField _ _ _ _ hk]
  by_cases h11 : k = 11
  · subst h11; simp
  by_cases h12 : k = 12
  · subst h12; simp
  by_cases h3 : k = 3
  · subst h3; simp
  by_cases h7 : k = 7
  · subst h7; simp
  simp only [h3, h7, h11, h12, if_false]
  repeat rw [if_neg (by omega)]

/-- mstatus at MRET, bit by bit (spec/47_zicsr_system.md R420). -/
theorem getLsbD_mretStatus (m : Word) (k : Nat) (hk : k < 32) :
    (mretStatus m).getLsbD k =
      if k = 3 then m.getLsbD 7 else if k = 7 then true else if k = 11 ∨ k = 12 then false else m.getLsbD k := by
  unfold mretStatus
  simp only [getLsbD_setField _ _ _ _ hk]
  by_cases h11 : k = 11
  · subst h11; simp
  by_cases h12 : k = 12
  · subst h12; simp
  by_cases h3 : k = 3
  · subst h3; simp
  by_cases h7 : k = 7
  · subst h7; simp
  simp only [h3, h7, h11, h12, if_false, or_self]
  repeat rw [if_neg (by omega)]

/-- The previous privilege that trap entry saves. -/
theorem mpp_trapStatus (m : Word) (p : BitVec 2) : (trapStatus m p).extractLsb' 11 2 = p :=
  extract_setField_same _ _ _ (by omega)

end Sys2Proof.Machine
end

