-- ==== Sys2Proof/Laws/Ops.lean ====
section
/-! SUPPORT. One lemma per shared operation: all that it can do. The provers cite these and do not unfold the operations. -/

namespace Sys2Proof.Machine

/-- `retire` writes rd, continues at P + 4 and changes nothing else. -/
theorem retire_effect (rd : RegNum) (v : Word) (s : State) :
    ∃ t, retire rd v s = .next t ∧ WritesReg s t rd v ∧ t.pc = s.pc + 4 ∧ SameButRegsPc s t := by
  refine ⟨advance (s.setReg rd v), rfl, ⟨?_, ?_⟩, by simp, ?_⟩
  · simp only [advance_reg, State.reg_setReg, if_true]
  · intro r hr
    simp only [advance_reg, State.reg_setReg, if_neg hr]
    split
    · rename_i h; subst h; rfl
    · rfl
  · unfold SameButRegsPc advance State.setPc State.setReg
    split <;> rfl

/-- An instruction whose meaning is one `retire`. -/
theorem computesInto_of_retire {i : Instr} {rd : RegNum} {v : State → Word} (h : ∀ s, exec i s = retire rd (v s) s) :
    ComputesInto i rd v := fun s => by rw [h s]; exact retire_effect rd (v s) s

/-- A branch leaves everything but pc. -/
theorem branch_effect (taken : Bool) (off : BitVec 13) (s : State) :
    branch taken off s = .next { s with pc := if taken then s.pc + sext off else s.pc + 4 } := by
  cases taken <;> rfl

/-- Trap entry with a synchronous code (spec/60_exceptions.md R521 to R527). -/
theorem raiseTrap_effect (code : Word) (h0 : code ≠ 0) (h31 : code.getLsbD 31 = false) (s : State) :
    ∃ t, raiseTrap code s = .next t ∧ TrapsWith (code - 1) s t := by
  refine ⟨_, rfl, ?_⟩
  unfold trapEntry
  rw [if_neg (by simpa using h0)]
  simp only [State.setTrap_trap, h31, Bool.false_eq_true, if_false]
  unfold TrapsWith TrapEntered
  refine ⟨rfl, rfl, rfl, rfl, ?_, ?_, ?_, ?_, ?_, ?_, ?_, rfl, rfl⟩
  · exact getLsbD_trapStatus _ _ 7 (by omega)
  · exact getLsbD_trapStatus _ _ 3 (by omega)
  · exact mpp_trapStatus _ _
  · intro k hk h3 h7 h11 h12
    refine (getLsbD_trapStatus _ _ k hk).trans ?_
    rw [if_neg h7, if_neg h3, if_neg h11, if_neg h12]; rfl
  · exact extract_setField_same _ _ _ (by omega)
  · show (setField _ 0 3#2).getLsbD 2 = _
    rw [getLsbD_setField _ _ _ _ (by omega), if_neg (by omega)]; rfl
  · exact extract_setField_other _ _ _ _ _ (by omega) (by omega)

/-- The illegal-instruction trap has cause 2 (spec/60_exceptions.md R520). -/
theorem illegalInstruction_effect (s : State) : ∃ t, illegalInstruction s = .next t ∧ TrapsWith 2 s t := by
  obtain ⟨t, h, ht⟩ := raiseTrap_effect 3 (by decide) (by decide) s
  exact ⟨t, h, ht⟩

/-- Trap entry with an interrupt signal, as one update (spec/60_exceptions.md R521 to R527). -/
theorem trapEntry_interrupt (s : State) (h0 : s.trap ≠ 0) (h31 : s.trap.getLsbD 31 = true) :
    trapEntry s = { s with
      mcause := s.trap, mtval := 0, mepc := s.pc + 4, mstatus := trapStatus s.mstatus s.priv, pc := s.mtvec,
      extraflags := setField s.extraflags 0 3#2, trap := 0 } := by
  unfold trapEntry
  rw [if_neg h0]
  simp only [h31, if_true]

/-- Trap entry with an interrupt signal, field by field. -/
theorem trapEntry_interrupt_effect (s : State) (h0 : s.trap ≠ 0) (h31 : s.trap.getLsbD 31 = true) :
    TrapEntered s.trap (s.pc + 4) 0 s (trapEntry s) := by
  rw [trapEntry_interrupt s h0 h31]
  refine ⟨rfl, rfl, rfl, rfl, ?_, ?_, ?_, ?_, ?_, ?_, ?_, rfl, rfl⟩
  · exact getLsbD_trapStatus _ _ 7 (by omega)
  · exact getLsbD_trapStatus _ _ 3 (by omega)
  · exact mpp_trapStatus _ _
  · intro k hk h3 h7 h11 h12
    refine (getLsbD_trapStatus _ _ k hk).trans ?_
    rw [if_neg h7, if_neg h3, if_neg h11, if_neg h12]
  · exact extract_setField_same _ _ _ (by omega)
  · show (setField _ 0 3#2).getLsbD 2 = _
    rw [getLsbD_setField _ _ _ _ (by omega), if_neg (by omega)]; rfl
  · exact extract_setField_other _ _ _ _ _ (by omega) (by omega)

/-- Trap entry with the timer interrupt (spec/60_exceptions.md R504, R521 to R527). -/
theorem enterInterrupt_effect (s : State) : InterruptsTo s (enterInterrupt s) := by
  have h := trapEntry_interrupt_effect ((s.setPc (s.pc - 4)).setTrap 0x80000007)
    (show (0x80000007 : Word) ≠ 0 by decide) (show (0x80000007 : Word).getLsbD 31 = true by decide)
  rw [show ((s.setPc (s.pc - 4)).setTrap 0x80000007).pc + 4 = s.pc from BitVec.sub_add_cancel s.pc 4] at h
  exact h

/-- A load that completes: the bus read succeeded, and rd holds the value as the load reads it. -/
theorem load_next {n : Nat} {ext : Nat → Word} {rd rs1 : RegNum} {imm : BitVec 12} {s t : State}
    (h : load n ext rd rs1 imm s = .next t) :
    ∃ v s', busRead s (effAddr s rs1 imm) n = .ok (v, s') ∧ t = advance (s'.setReg rd (ext v)) := by
  unfold load at h
  split at h
  · cases h
  · rename_i v s' hr
    injection h with h
    exact ⟨v, s', hr, h.symm⟩

/-- A store that completes: the bus write succeeded. -/
theorem store_next {n : Nat} {rs2 rs1 : RegNum} {imm : BitVec 12} {s t : State} (h : store n rs2 rs1 imm s = .next t) :
    ∃ s', busWrite s (effAddr s rs1 imm) n (s.reg rs2).toNat = .ok s' ∧ t = advance s' := by
  unfold store at h
  split at h
  · cases h
  · rename_i s' hw
    injection h with h
    exact ⟨s', hw, h.symm⟩

/-- An AMO that completes: its read and its write succeeded. -/
theorem amo_next {op : Word → Word → Word} {rd rs1 rs2 : RegNum} {s t : State} (h : amo op rd rs1 rs2 s = .next t) :
    ∃ v s' s'', busRead s (s.reg rs1) 4 = .ok (v, s') ∧
      busWrite s' (s.reg rs1) 4 (op (BitVec.ofNat 32 v) (s.reg rs2)).toNat = .ok s'' ∧
      t = advance (s''.setReg rd (BitVec.ofNat 32 v)) := by
  unfold amo at h
  split at h
  · cases h
  · rename_i v s' hr
    simp only at h
    split at h
    · cases h
    · rename_i s'' hw
      injection h with h
      exact ⟨v, s', s'', hr, hw, h.symm⟩

/-- A CSR read after a CSR write: a writable CSR holds the value, every other CSR its old one. -/
theorem csr_setCsr (s : State) (c d : Csr) (v : Word) :
    (s.setCsr c v).csr d = if d = c ∧ csrReadOnly c = false then v else s.csr d := by
  cases c <;> cases d <;> rfl

/-- A CSR write touches no register, pc, memory, stream, reservation, signal or configuration. -/
theorem setCsr_frame (s : State) (c : Csr) (v : Word) :
    (s.setCsr c v).regs = s.regs ∧ (s.setCsr c v).pc = s.pc ∧ (s.setCsr c v).extraflags = s.extraflags ∧
    (s.setCsr c v).trap = s.trap ∧ (s.setCsr c v).mem = s.mem ∧ (s.setCsr c v).uartIn = s.uartIn ∧
    (s.setCsr c v).uartOut = s.uartOut ∧ (s.setCsr c v).elapsedIn = s.elapsedIn ∧
    (s.setCsr c v).elapsedRest = s.elapsedRest ∧ (s.setCsr c v).cfg = s.cfg := by
  cases c <;> exact ⟨rfl, rfl, rfl, rfl, rfl, rfl, rfl, rfl, rfl, rfl⟩

/-- What a CSR instruction does: the illegal-instruction trap, or the read and the write of one CSR (spec/47_zicsr_system.md R393). -/
theorem csrOp_cases (k : CsrKind) (rd : RegNum) (num : CsrNum) (field : BitVec 5) (src : Word) (s : State) :
    (csrOp k rd num field src s = illegalInstruction s ∧
      (csrAt s.cfg num = none ∨ ∃ c, csrAt s.cfg num = some c ∧ csrWrites k field = true ∧ csrReadOnly c = true)) ∨
    ∃ c, csrAt s.cfg num = some c ∧ (csrWrites k field = false ∨ csrReadOnly c = false) ∧
      csrOp k rd num field src s =
        retire rd (s.csr c) (if csrWrites k field then s.setCsr c (csrNew k (s.csr c) src) else s) := by
  unfold csrOp
  cases hc : csrAt s.cfg num with
  | none => exact .inl ⟨rfl, .inl rfl⟩
  | some c =>
    simp only
    by_cases h : (csrWrites k field && csrReadOnly c) = true
    · rw [if_pos h]
      exact .inl ⟨rfl, .inr ⟨c, rfl, by simpa using h⟩⟩
    · rw [if_neg h]
      refine .inr ⟨c, rfl, ?_, rfl⟩
      cases h1 : csrWrites k field <;> cases h2 : csrReadOnly c <;> simp_all

/-! ### The step -/

/-- Everything a step that answers a next state can be: an idle step, the interrupt, an illegal sub-opcode, or an instruction. -/
theorem step_next {s t : State} (h : step s = .next t) :
    ((beginStep s).waiting = true ∧ t = beginStep s) ∨
    ((beginStep s).waiting = false ∧ interruptTaken (beginStep s) = true ∧ t = endStep (enterInterrupt (beginStep s))) ∨
    ((beginStep s).waiting = false ∧ interruptTaken (beginStep s) = false ∧
      ∃ w s' u, fetch (beginStep s) = .ok (w, s') ∧ runWord w s'.clearX0 = .next u ∧ t = endStep u) := by
  have h' : runPhase (beginStep s) = .next t := h
  generalize beginStep s = b at h' ⊢
  unfold runPhase at h'
  split at h'
  · injection h' with h'; exact .inl ⟨by assumption, h'.symm⟩
  · rename_i hw
    split at h'
    · injection h' with h'; exact .inr (.inl ⟨by simpa using hw, by assumption, h'.symm⟩)
    · rename_i hi
      refine .inr (.inr ⟨by simpa using hw, by simpa using hi, ?_⟩)
      split at h'
      · cases h'
      · rename_i w s' hf
        unfold finish at h'
        split at h'
        · rename_i u hu
          injection h' with h'
          exact ⟨w, s', u, hf, hu, h'.symm⟩
        · cases h'
        · cases h'

/-- Running a word that answers a next state: an instruction, or the illegal-instruction trap. -/
theorem runWord_next {w : Word} {s t : State} (h : runWord w s = .next t) :
    (∃ i, dispatch s.cfg.extensions w = .ok i ∧ exec i s = .next t) ∨
    (dispatch s.cfg.extensions w = .error .illegalSubOpcode ∧ illegalInstruction s = .next t) := by
  unfold runWord at h
  split at h
  · rename_i i hi; exact .inl ⟨i, hi, h⟩
  · rename_i hi; exact .inr ⟨hi, h⟩
  · cases h
  · cases h

/-- A fetch that succeeds read four bytes at pc. -/
theorem fetch_ok {s s' : State} {w : Word} (h : fetch s = .ok (w, s')) :
    ∃ v, busRead s s.pc 4 = .ok (v, s') ∧ w = BitVec.ofNat 32 v := by
  unfold fetch at h
  split at h
  · cases h
  · rename_i v s'' hr; cases h; exact ⟨v, hr, rfl⟩

end Sys2Proof.Machine
end

