-- ==== Sys2Proof/Laws/Cycle.lean ====
section
/-! SUPPORT. What the first and the last phase of a step leave of each field (spec/60_exceptions.md R500, R502, R503, R511), and the halves of the
64-bit counters put together. -/

namespace Sys2Proof.Machine

variable (s : State)

/-! ### The two halves of a 64-bit counter -/

theorem append_extract_halves (t : BitVec 64) : t.extractLsb' 32 32 ++ t.extractLsb' 0 32 = t := by
  apply BitVec.eq_of_toNat_eq
  rw [BitVec.toNat_append, BitVec.extractLsb'_toNat, BitVec.extractLsb'_toNat, Nat.shiftRight_zero,
    ← Nat.shiftLeft_add_eq_or_of_lt (Nat.mod_lt _ (by omega))]
  have := t.isLt
  simp only [Nat.shiftRight_eq_div_pow, Nat.shiftLeft_eq]
  omega

@[simp] theorem State.setTime_time (t : BitVec 64) : (s.setTime t).time = t := append_extract_halves t
@[simp] theorem State.setCycle_cycle (t : BitVec 64) : (s.setCycle t).cycle = t := append_extract_halves t

/-! ### beginStep -/

@[simp] theorem beginStep_regs : (beginStep s).regs = s.regs := by unfold beginStep checkTimer; split <;> rfl
@[simp] theorem beginStep_pc : (beginStep s).pc = s.pc := by unfold beginStep checkTimer; split <;> rfl
@[simp] theorem beginStep_mstatus : (beginStep s).mstatus = s.mstatus := by unfold beginStep checkTimer; split <;> rfl
@[simp] theorem beginStep_mie : (beginStep s).mie = s.mie := by unfold beginStep checkTimer; split <;> rfl
@[simp] theorem beginStep_mtvec : (beginStep s).mtvec = s.mtvec := by unfold beginStep checkTimer; split <;> rfl
@[simp] theorem beginStep_mscratch : (beginStep s).mscratch = s.mscratch := by unfold beginStep checkTimer; split <;> rfl
@[simp] theorem beginStep_mepc : (beginStep s).mepc = s.mepc := by unfold beginStep checkTimer; split <;> rfl
@[simp] theorem beginStep_mcause : (beginStep s).mcause = s.mcause := by unfold beginStep checkTimer; split <;> rfl
@[simp] theorem beginStep_mtval : (beginStep s).mtval = s.mtval := by unfold beginStep checkTimer; split <;> rfl
@[simp] theorem beginStep_timecmpl : (beginStep s).timecmpl = s.timecmpl := by unfold beginStep checkTimer; split <;> rfl
@[simp] theorem beginStep_timecmph : (beginStep s).timecmph = s.timecmph := by unfold beginStep checkTimer; split <;> rfl
@[simp] theorem beginStep_cyclel : (beginStep s).cyclel = s.cyclel := by unfold beginStep checkTimer; split <;> rfl
@[simp] theorem beginStep_cycleh : (beginStep s).cycleh = s.cycleh := by unfold beginStep checkTimer; split <;> rfl
@[simp] theorem beginStep_mem : (beginStep s).mem = s.mem := by unfold beginStep checkTimer; split <;> rfl
@[simp] theorem beginStep_uartIn : (beginStep s).uartIn = s.uartIn := by unfold beginStep checkTimer; split <;> rfl
@[simp] theorem beginStep_uartOut : (beginStep s).uartOut = s.uartOut := by unfold beginStep checkTimer; split <;> rfl
@[simp] theorem beginStep_elapsedRest : (beginStep s).elapsedRest = s.elapsedRest := by unfold beginStep checkTimer; split <;> rfl
@[simp] theorem beginStep_cfg : (beginStep s).cfg = s.cfg := by unfold beginStep checkTimer; split <;> rfl
@[simp] theorem beginStep_trap : (beginStep s).trap = 0 := by unfold beginStep checkTimer; split <;> rfl
@[simp] theorem beginStep_elapsedIn : (beginStep s).elapsedIn = s.elapsedIn.tail := by unfold beginStep checkTimer; split <;> rfl
@[simp] theorem beginStep_time : (beginStep s).time = s.time + s.elapsed.setWidth 64 := by
  have h : (advanceTimer (s.setTrap 0)).time = s.time + s.elapsed.setWidth 64 := State.setTime_time (s.setTrap 0) _
  rw [← h]; unfold beginStep checkTimer; split <;> rfl

/-- mip after the timer check: bit 7 is the timer condition, the others are kept. -/
theorem beginStep_mip_bit (k : Nat) (hk : k < 32) :
    (beginStep s).mip.getLsbD k = if k = 7 then timerCondition (advanceTimer (s.setTrap 0)) else s.mip.getLsbD k := by
  unfold beginStep checkTimer
  split
  · rename_i h
    refine (getLsbD_setField _ _ _ _ hk).trans ?_
    by_cases h7 : k = 7
    · subst h7; rw [if_pos (by omega), if_pos rfl, h]; rfl
    · rw [if_neg (by omega), if_neg h7]; rfl
  · rename_i h
    refine (getLsbD_setField _ _ _ _ hk).trans ?_
    by_cases h7 : k = 7
    · subst h7; rw [if_pos (by omega), if_pos rfl, (by simpa using h : timerCondition (advanceTimer (s.setTrap 0)) = false)]; rfl
    · rw [if_neg (by omega), if_neg h7]; rfl

/-- extraflags after the timer check: wfi cleared if the timer condition holds, else nothing. -/
theorem beginStep_extraflags :
    (beginStep s).extraflags =
      if timerCondition (advanceTimer (s.setTrap 0)) then setField s.extraflags 2 0#1 else s.extraflags := by
  unfold beginStep checkTimer; split <;> rfl

/-! ### endStep -/

@[simp] theorem endStep_pc : (endStep s).pc = s.pc := rfl
@[simp] theorem endStep_mstatus : (endStep s).mstatus = s.mstatus := rfl
@[simp] theorem endStep_mie : (endStep s).mie = s.mie := rfl
@[simp] theorem endStep_mip : (endStep s).mip = s.mip := rfl
@[simp] theorem endStep_mtvec : (endStep s).mtvec = s.mtvec := rfl
@[simp] theorem endStep_mscratch : (endStep s).mscratch = s.mscratch := rfl
@[simp] theorem endStep_mepc : (endStep s).mepc = s.mepc := rfl
@[simp] theorem endStep_mcause : (endStep s).mcause = s.mcause := rfl
@[simp] theorem endStep_mtval : (endStep s).mtval = s.mtval := rfl
@[simp] theorem endStep_timecmpl : (endStep s).timecmpl = s.timecmpl := rfl
@[simp] theorem endStep_timecmph : (endStep s).timecmph = s.timecmph := rfl
@[simp] theorem endStep_timel : (endStep s).timel = s.timel := rfl
@[simp] theorem endStep_timeh : (endStep s).timeh = s.timeh := rfl
@[simp] theorem endStep_extraflags : (endStep s).extraflags = s.extraflags := rfl
@[simp] theorem endStep_trap : (endStep s).trap = s.trap := rfl
@[simp] theorem endStep_mem : (endStep s).mem = s.mem := rfl
@[simp] theorem endStep_uartIn : (endStep s).uartIn = s.uartIn := rfl
@[simp] theorem endStep_uartOut : (endStep s).uartOut = s.uartOut := rfl
@[simp] theorem endStep_elapsedIn : (endStep s).elapsedIn = s.elapsedIn := rfl
@[simp] theorem endStep_elapsedRest : (endStep s).elapsedRest = s.elapsedRest := rfl
@[simp] theorem endStep_cfg : (endStep s).cfg = s.cfg := rfl
@[simp] theorem endStep_regs : (endStep s).regs = s.regs.set 0 0 := rfl
@[simp] theorem endStep_cycle : (endStep s).cycle = s.cycle + 1 := State.setCycle_cycle s _

end Sys2Proof.Machine
end

