-- ==== Sys2Proof/Laws/Decode.lean ====
section
/-! SUPPORT. A word is its six fields (spec/30_encoding.md R132): reading the fields of an encoded word, equality of words by fields, and
template matching field by field. -/

namespace Sys2Proof

variable (f7 : BitVec 7) (rs2 rs1 : RegNum) (f3 : BitVec 3) (rd : RegNum) (op : BitVec 7)

/-- Reading bits of the lower part of two words side by side. -/
theorem extract_append_low {m n : Nat} (x : BitVec m) (y : BitVec n) (lo len : Nat) (h : lo + len ≤ n) :
    (x ++ y).extractLsb' lo len = y.extractLsb' lo len := by
  apply BitVec.eq_of_getLsbD_eq
  intro k hk
  simp only [BitVec.getLsbD_extractLsb', BitVec.getLsbD_append]
  rw [if_pos (by omega)]

/-- Reading bits of the upper part. -/
theorem extract_append_high {m n : Nat} (x : BitVec m) (y : BitVec n) (lo len : Nat) (h : n ≤ lo) :
    (x ++ y).extractLsb' lo len = x.extractLsb' (lo - n) len := by
  apply BitVec.eq_of_getLsbD_eq
  intro k hk
  simp only [BitVec.getLsbD_extractLsb', BitVec.getLsbD_append]
  rw [if_neg (by omega), show lo + k - n = lo - n + k by omega]

theorem extract_all {n : Nat} (x : BitVec n) : x.extractLsb' 0 n = x := by
  apply BitVec.eq_of_getLsbD_eq
  intro k hk
  simp [hk]

@[simp] theorem opcodeOf_encodeR : opcodeOf (encodeR f7 rs2 rs1 f3 rd op) = op := by
  unfold opcodeOf bits encodeR
  rw [extract_append_low _ _ _ _ (by omega), extract_all]

@[simp] theorem rdOf_encodeR : rdOf (encodeR f7 rs2 rs1 f3 rd op) = rd := by
  unfold rdOf bits encodeR
  rw [extract_append_high _ _ _ _ (by omega), extract_append_low _ _ _ _ (by omega), extract_all]

@[simp] theorem funct3Of_encodeR : funct3Of (encodeR f7 rs2 rs1 f3 rd op) = f3 := by
  unfold funct3Of bits encodeR
  rw [extract_append_high _ _ _ _ (by omega), extract_append_high _ _ _ _ (by omega), extract_append_low _ _ _ _ (by omega),
    extract_all]

@[simp] theorem rs1Of_encodeR : rs1Of (encodeR f7 rs2 rs1 f3 rd op) = rs1 := by
  unfold rs1Of bits encodeR
  rw [extract_append_high _ _ _ _ (by omega), extract_append_high _ _ _ _ (by omega), extract_append_high _ _ _ _ (by omega),
    extract_append_low _ _ _ _ (by omega), extract_all]

@[simp] theorem rs2Of_encodeR : rs2Of (encodeR f7 rs2 rs1 f3 rd op) = rs2 := by
  unfold rs2Of bits encodeR
  rw [extract_append_high _ _ _ _ (by omega), extract_append_high _ _ _ _ (by omega), extract_append_high _ _ _ _ (by omega),
    extract_append_high _ _ _ _ (by omega), extract_append_low _ _ _ _ (by omega), extract_all]

@[simp] theorem funct7Of_encodeR : funct7Of (encodeR f7 rs2 rs1 f3 rd op) = f7 := by
  unfold funct7Of bits encodeR
  rw [extract_append_high _ _ _ _ (by omega), extract_append_high _ _ _ _ (by omega), extract_append_high _ _ _ _ (by omega),
    extract_append_high _ _ _ _ (by omega), extract_append_high _ _ _ _ (by omega)]
  exact extract_all _

/-- Two words with the same six fields are equal. -/
theorem word_ext {v w : Word} (h7 : funct7Of v = funct7Of w) (h2 : rs2Of v = rs2Of w) (h1 : rs1Of v = rs1Of w)
    (h3 : funct3Of v = funct3Of w) (hd : rdOf v = rdOf w) (ho : opcodeOf v = opcodeOf w) : v = w := by
  apply BitVec.eq_of_getLsbD_eq
  intro k hk
  have key : ∀ lo len, bits v lo len = bits w lo len → lo ≤ k → k < lo + len → v.getLsbD k = w.getLsbD k := by
    intro lo len e h1 h2
    have := congrArg (fun x => x.getLsbD (k - lo)) e
    simpa [bits, BitVec.getLsbD_extractLsb', show k - lo < len by omega, show lo + (k - lo) = k by omega] using this
  by_cases c : k < 7
  · exact key 0 7 ho (by omega) (by omega)
  by_cases c : k < 12
  · exact key 7 5 hd (by omega) (by omega)
  by_cases c : k < 15
  · exact key 12 3 h3 (by omega) (by omega)
  by_cases c : k < 20
  · exact key 15 5 h1 (by omega) (by omega)
  by_cases c : k < 25
  · exact key 20 5 h2 (by omega) (by omega)
  · exact key 25 7 h7 (by omega) (by omega)

/-- Every word is the R-format word of its fields. -/
theorem encodeR_fields (w : Word) :
    encodeR (funct7Of w) (rs2Of w) (rs1Of w) (funct3Of w) (rdOf w) (opcodeOf w) = w := by
  apply word_ext <;> simp

theorem bits_and (v w : Word) (lo len : Nat) : bits (v &&& w) lo len = bits v lo len &&& bits w lo len := by
  apply BitVec.eq_of_getLsbD_eq
  intro k hk
  simp [bits, hk]

/-- Masking a word, field by field: how a template or a row of the opcode table reads it (R145). -/
theorem and_eq_iff (w mask value : Word) :
    w &&& mask = value ↔
      funct7Of w &&& funct7Of mask = funct7Of value ∧ rs2Of w &&& rs2Of mask = rs2Of value ∧
      rs1Of w &&& rs1Of mask = rs1Of value ∧ funct3Of w &&& funct3Of mask = funct3Of value ∧
      rdOf w &&& rdOf mask = rdOf value ∧ opcodeOf w &&& opcodeOf mask = opcodeOf value := by
  constructor
  · rintro rfl
    exact ⟨(bits_and ..).symm, (bits_and ..).symm, (bits_and ..).symm, (bits_and ..).symm, (bits_and ..).symm,
      (bits_and ..).symm⟩
  · rintro ⟨h7, h2, h1, h3, hd, ho⟩
    exact word_ext ((bits_and ..).trans h7) ((bits_and ..).trans h2) ((bits_and ..).trans h1) ((bits_and ..).trans h3)
      ((bits_and ..).trans hd) ((bits_and ..).trans ho)

/-! ### The other formats as R-format words, so that one set of lemmas serves all (R139: views of the same 32 bits) -/

theorem encodeI_eq (imm : BitVec 12) :
    encodeI imm rs1 f3 rd op = encodeR (imm.extractLsb' 5 7) (imm.extractLsb' 0 5) rs1 f3 rd op := by
  have h : imm = imm.extractLsb' 5 7 ++ imm.extractLsb' 0 5 := by
    apply BitVec.eq_of_getLsbD_eq
    intro k hk
    rw [BitVec.getLsbD_append]
    split
    · simp [*]
    · simp [show k - 5 < 7 by omega, show 5 + (k - 5) = k by omega]
  unfold encodeI encodeR
  conv_lhs => rw [h]

theorem encodeS_eq (imm : BitVec 12) :
    encodeS imm rs2 rs1 f3 op = encodeR (imm.extractLsb' 5 7) rs2 rs1 f3 (imm.extractLsb' 0 5) op := rfl

theorem encodeB_eq (off : BitVec 13) :
    encodeB off rs2 rs1 f3 op =
      encodeR (off.extractLsb' 12 1 ++ off.extractLsb' 5 6) rs2 rs1 f3 (off.extractLsb' 1 4 ++ off.extractLsb' 11 1) op := by
  unfold encodeB encodeR
  apply BitVec.eq_of_getLsbD_eq
  intro k hk
  simp only [BitVec.getLsbD_append]
  repeat' split
  all_goals first
    | rfl
    | omega

theorem encodeU_eq (imm : BitVec 20) :
    encodeU imm rd op =
      encodeR (imm.extractLsb' 13 7) (imm.extractLsb' 8 5) (imm.extractLsb' 3 5) (imm.extractLsb' 0 3) rd op := by
  unfold encodeU encodeR
  apply BitVec.eq_of_getLsbD_eq
  intro k hk
  simp only [BitVec.getLsbD_append, BitVec.getLsbD_extractLsb']
  repeat' split
  all_goals first
    | rfl
    | omega
    | (simp only [show k - 7 - 5 < 3 by omega, decide_true, Bool.true_and]; congr 1; omega)
    | (simp only [show k - 7 - 5 - 3 < 5 by omega, decide_true, Bool.true_and]; congr 1; omega)
    | (simp only [show k - 7 - 5 - 3 - 5 < 5 by omega, decide_true, Bool.true_and]; congr 1; omega)
    | (simp only [show k - 7 - 5 - 3 - 5 - 5 < 7 by omega, decide_true, Bool.true_and]; congr 1; omega)

/-- The J format in R-format fields: `imm[20] ++ imm[10:5]`, `imm[4:1] ++ imm[11]`, `imm[19:15]`, `imm[14:12]` (R138). -/
theorem encodeJ_eq (off : BitVec 21) :
    encodeJ off rd op =
      encodeR (off.extractLsb' 20 1 ++ off.extractLsb' 5 6) (off.extractLsb' 1 4 ++ off.extractLsb' 11 1)
        (off.extractLsb' 15 5) (off.extractLsb' 12 3) rd op := by
  unfold encodeJ encodeR
  apply BitVec.eq_of_getLsbD_eq
  intro k hk
  simp only [BitVec.getLsbD_append, BitVec.getLsbD_extractLsb']
  by_cases c1 : k < 7
  · simp [c1]
  by_cases c2 : k < 12
  · simp [c1, show k - 7 < 5 by omega]
  by_cases c3 : k < 15
  · simp [c1, show ¬ k - 7 < 5 by omega, show k - 7 - 5 < 8 by omega, show k - 7 - 5 < 3 by omega]
  by_cases c4 : k < 20
  · simp [c1, show ¬ k - 7 < 5 by omega, show k - 7 - 5 < 8 by omega, show ¬ k - 7 - 5 < 3 by omega,
      show k - 7 - 5 - 3 < 5 by omega]
    congr 1; omega
  by_cases c5 : k < 21
  · simp [c1, show ¬ k - 7 < 5 by omega, show ¬ k - 7 - 5 < 8 by omega, show ¬ k - 7 - 5 < 3 by omega,
      show ¬ k - 7 - 5 - 3 < 5 by omega, show k - 7 - 5 - 8 < 1 by omega, show k - 7 - 5 - 3 - 5 < 5 by omega,
      show k - 7 - 5 - 3 - 5 < 1 by omega]
    congr 1
  by_cases c6 : k < 25
  · simp [c1, show ¬ k - 7 < 5 by omega, show ¬ k - 7 - 5 < 8 by omega, show ¬ k - 7 - 5 < 3 by omega,
      show ¬ k - 7 - 5 - 3 < 5 by omega, show ¬ k - 7 - 5 - 8 < 1 by omega, show k - 7 - 5 - 8 - 1 < 10 by omega,
      show k - 7 - 5 - 3 - 5 < 5 by omega, show ¬ k - 7 - 5 - 3 - 5 < 1 by omega, show k - 7 - 5 - 3 - 5 - 1 < 4 by omega]
    congr 1
  by_cases c7 : k < 31
  · simp [c1, show ¬ k - 7 < 5 by omega, show ¬ k - 7 - 5 < 8 by omega, show ¬ k - 7 - 5 < 3 by omega,
      show ¬ k - 7 - 5 - 3 < 5 by omega, show ¬ k - 7 - 5 - 8 < 1 by omega, show k - 7 - 5 - 8 - 1 < 10 by omega,
      show ¬ k - 7 - 5 - 3 - 5 < 5 by omega, show k - 7 - 5 - 3 - 5 - 5 < 6 by omega]
    congr 1; omega
  · simp [c1, show ¬ k - 7 < 5 by omega, show ¬ k - 7 - 5 < 8 by omega, show ¬ k - 7 - 5 < 3 by omega,
      show ¬ k - 7 - 5 - 3 < 5 by omega, show ¬ k - 7 - 5 - 8 < 1 by omega, show ¬ k - 7 - 5 - 8 - 1 < 10 by omega,
      show ¬ k - 7 - 5 - 3 - 5 < 5 by omega, show ¬ k - 7 - 5 - 3 - 5 - 5 < 6 by omega,
      show k - 7 - 5 - 8 - 1 - 10 < 1 by omega, show k - 7 - 5 - 3 - 5 - 5 - 6 < 1 by omega]
    congr 1

end Sys2Proof
end

