-- ==== Sys2Proof/Laws/Host.lean ====
section
/-! SUPPORT. What the host's actions and a run of the core do in one round (spec/70_reset_and_hazards.md R611, R635). -/

namespace Sys2Proof.Machine

variable {s t : State}

/-! ### A run of the core -/

theorem run_of_next {M : Host.Core} {u v : M.State} (h : M.step u = .next v) (k : Nat) : M.run (k + 1) u = M.run k v := by
  rw [Host.Core.run, h]

theorem run_of_fault {M : Host.Core} {u : M.State} {f : M.Fault} (h : M.step u = .fault f) (k : Nat) : M.run (k + 1) u = .fault f := by
  rw [Host.Core.run, h]

@[simp] theorem core_run_zero : Sys2Proof.core.run 0 s = .next s := rfl

theorem core_run_of_next (h : step s = .next t) (k : Nat) : Sys2Proof.core.run (k + 1) s = Sys2Proof.core.run k t :=
  run_of_next (M := Sys2Proof.core) h k

theorem core_run_of_fault {f : Fault} (h : step s = .fault f) (k : Nat) : Sys2Proof.core.run (k + 1) s = .fault f :=
  run_of_fault (M := Sys2Proof.core) h k

/-! ### The host's run -/

theorem hostRun_left {cont : State → Bool} (h : cont s = false) (bound : Nat) : hostRun cont (bound + 1) s = .left s := by
  simp [hostRun, h]

theorem hostRun_of_next {cont : State → Bool} (h : cont s = true) (hs : step s = .next t) (bound : Nat) :
    hostRun cont (bound + 1) s = hostRun cont bound t := by
  simp [hostRun, h, hs]

theorem hostRun_of_fault {cont : State → Bool} {f : Fault} (h : cont s = true) (hs : step s = .fault f) (bound : Nat) :
    hostRun cont (bound + 1) s = .fatal f := by
  simp [hostRun, h, hs]

/-! ### The loader -/

/-- One byte of the image that lies in RAM. -/
theorem hostLoadFrom_cons {b : Byte} {bytes : List Byte} {a : Word} (h : InRam s.cfg a 1) :
    hostLoadFrom (b :: bytes) a s = hostLoadFrom bytes (a + 1) { s with mem := ramWrite s.mem a.toNat 1 b.toNat } := by
  conv => lhs; unfold hostLoadFrom
  rw [busWrite_ram h]

/-- An image longer than RAM. -/
theorem hostLoad_too_long {image : List Byte} (h : s.cfg.dramSize < image.length) :
    hostLoad image s = .fault (.noPeripheral (s.cfg.dramBase + BitVec.ofNat 32 s.cfg.dramSize)) :=
  if_neg (by omega)

end Sys2Proof.Machine
end

