-- ==== Sys2Proof/Laws/PerInstr.lean ====
section
/-! SUPPORT. One statement for every instruction, as syntax: the word the encoder gives it lies in its row of spec/opcode_table.json. -/

namespace Sys2Proof.Laws

/-- The mask and the match of the instruction's row in spec/opcode_table.json. -/
def tableRow : Instr → Word × Word
  | .lui .. => (0x0000007F, 0x00000037)
  | .auipc .. => (0x0000007F, 0x00000017)
  | .jal .. => (0x0000007F, 0x0000006F)
  | .jalr .. => (0x0000707F, 0x00000067)
  | .beq .. => (0x0000707F, 0x00000063)
  | .bne .. => (0x0000707F, 0x00001063)
  | .blt .. => (0x0000707F, 0x00004063)
  | .bge .. => (0x0000707F, 0x00005063)
  | .bltu .. => (0x0000707F, 0x00006063)
  | .bgeu .. => (0x0000707F, 0x00007063)
  | .lb .. => (0x0000707F, 0x00000003)
  | .lh .. => (0x0000707F, 0x00001003)
  | .lw .. => (0x0000707F, 0x00002003)
  | .lbu .. => (0x0000707F, 0x00004003)
  | .lhu .. => (0x0000707F, 0x00005003)
  | .sb .. => (0x0000707F, 0x00000023)
  | .sh .. => (0x0000707F, 0x00001023)
  | .sw .. => (0x0000707F, 0x00002023)
  | .addi .. => (0x0000707F, 0x00000013)
  | .slti .. => (0x0000707F, 0x00002013)
  | .sltiu .. => (0x0000707F, 0x00003013)
  | .xori .. => (0x0000707F, 0x00004013)
  | .ori .. => (0x0000707F, 0x00006013)
  | .andi .. => (0x0000707F, 0x00007013)
  | .slli .. => (0xFE00707F, 0x00001013)
  | .srli .. => (0xFE00707F, 0x00005013)
  | .srai .. => (0xFE00707F, 0x40005013)
  | .add .. => (0xFE00707F, 0x00000033)
  | .sub .. => (0xFE00707F, 0x40000033)
  | .sll .. => (0xFE00707F, 0x00001033)
  | .slt .. => (0xFE00707F, 0x00002033)
  | .sltu .. => (0xFE00707F, 0x00003033)
  | .xor .. => (0xFE00707F, 0x00004033)
  | .srl .. => (0xFE00707F, 0x00005033)
  | .sra .. => (0xFE00707F, 0x40005033)
  | .or .. => (0xFE00707F, 0x00006033)
  | .and .. => (0xFE00707F, 0x00007033)
  | .fence .. => (0x0000707F, 0x0000000F)
  | .ecall => (0xFFFFFFFF, 0x00000073)
  | .ebreak => (0xFFFFFFFF, 0x00100073)
  | .mul .. => (0xFE00707F, 0x02000033)
  | .mulh .. => (0xFE00707F, 0x02001033)
  | .mulhsu .. => (0xFE00707F, 0x02002033)
  | .mulhu .. => (0xFE00707F, 0x02003033)
  | .div .. => (0xFE00707F, 0x02004033)
  | .divu .. => (0xFE00707F, 0x02005033)
  | .rem .. => (0xFE00707F, 0x02006033)
  | .remu .. => (0xFE00707F, 0x02007033)
  | .lrw .. => (0xF9F0707F, 0x1000202F)
  | .scw .. => (0xF800707F, 0x1800202F)
  | .amoswapw .. => (0xF800707F, 0x0800202F)
  | .amoaddw .. => (0xF800707F, 0x0000202F)
  | .amoxorw .. => (0xF800707F, 0x2000202F)
  | .amoandw .. => (0xF800707F, 0x6000202F)
  | .amoorw .. => (0xF800707F, 0x4000202F)
  | .amominw .. => (0xF800707F, 0x8000202F)
  | .amomaxw .. => (0xF800707F, 0xA000202F)
  | .amominuw .. => (0xF800707F, 0xC000202F)
  | .amomaxuw .. => (0xF800707F, 0xE000202F)
  | .csrrw .. => (0x0000707F, 0x00001073)
  | .csrrs .. => (0x0000707F, 0x00002073)
  | .csrrc .. => (0x0000707F, 0x00003073)
  | .csrrwi .. => (0x0000707F, 0x00005073)
  | .csrrsi .. => (0x0000707F, 0x00006073)
  | .csrrci .. => (0x0000707F, 0x00007073)
  | .mret => (0xFFFFFFFF, 0x30200073)
  | .wfi => (0xFFFFFFFF, 0x10500073)

/-- The row's test accepts the encoded word: `(w & mask) == match`. -/
def EncodesRow.Statement (i : Instr) : Prop := encode i &&& (tableRow i).1 = (tableRow i).2

/-! ### What each mask of the table keeps of a word -/

/-- A field the mask leaves free. -/
theorem and_free {n : Nat} {m : BitVec n} (x : BitVec n) (h : m = 0#n) : x &&& m = 0#n := by rw [h, BitVec.and_zero]

/-- A field the mask fixes. -/
theorem and_fixed {n : Nat} {m : BitVec n} (x : BitVec n) (h : m = BitVec.allOnes n) : x &&& m = x := by
  rw [h, BitVec.and_allOnes]

/-- Opcode, funct3 and funct7 stay. -/
theorem rowR (f7 : BitVec 7) (rs2 rs1 : RegNum) (f3 : BitVec 3) (rd : RegNum) (op : BitVec 7) :
    encodeR f7 rs2 rs1 f3 rd op &&& 0xFE00707F#32 = encodeR f7 0 0 f3 0 op := by
  rw [and_eq_iff]
  simp only [funct7Of_encodeR, rs2Of_encodeR, rs1Of_encodeR, funct3Of_encodeR, rdOf_encodeR, opcodeOf_encodeR]
  exact ⟨and_fixed _ (by decide), and_free _ (by decide), and_free _ (by decide), and_fixed _ (by decide),
    and_free _ (by decide), and_fixed _ (by decide)⟩

/-- Opcode and funct3 stay. -/
theorem rowF3 (f7 : BitVec 7) (rs2 rs1 : RegNum) (f3 : BitVec 3) (rd : RegNum) (op : BitVec 7) :
    encodeR f7 rs2 rs1 f3 rd op &&& 0x0000707F#32 = encodeR 0 0 0 f3 0 op := by
  rw [and_eq_iff]
  simp only [funct7Of_encodeR, rs2Of_encodeR, rs1Of_encodeR, funct3Of_encodeR, rdOf_encodeR, opcodeOf_encodeR]
  exact ⟨and_free _ (by decide), and_free _ (by decide), and_free _ (by decide), and_fixed _ (by decide),
    and_free _ (by decide), and_fixed _ (by decide)⟩

/-- The opcode stays. -/
theorem rowOp (f7 : BitVec 7) (rs2 rs1 : RegNum) (f3 : BitVec 3) (rd : RegNum) (op : BitVec 7) :
    encodeR f7 rs2 rs1 f3 rd op &&& 0x0000007F#32 = encodeR 0 0 0 0 0 op := by
  rw [and_eq_iff]
  simp only [funct7Of_encodeR, rs2Of_encodeR, rs1Of_encodeR, funct3Of_encodeR, rdOf_encodeR, opcodeOf_encodeR]
  exact ⟨and_free _ (by decide), and_free _ (by decide), and_free _ (by decide), and_free _ (by decide),
    and_free _ (by decide), and_fixed _ (by decide)⟩

theorem rowI (imm : BitVec 12) (rs1 : RegNum) (f3 : BitVec 3) (rd : RegNum) (op : BitVec 7) :
    encodeI imm rs1 f3 rd op &&& 0x0000707F#32 = encodeR 0 0 0 f3 0 op := by rw [encodeI_eq, rowF3]

theorem rowS (imm : BitVec 12) (rs2 rs1 : RegNum) (f3 : BitVec 3) (op : BitVec 7) :
    encodeS imm rs2 rs1 f3 op &&& 0x0000707F#32 = encodeR 0 0 0 f3 0 op := by rw [encodeS_eq, rowF3]

theorem rowB (off : BitVec 13) (rs2 rs1 : RegNum) (f3 : BitVec 3) (op : BitVec 7) :
    encodeB off rs2 rs1 f3 op &&& 0x0000707F#32 = encodeR 0 0 0 f3 0 op := by rw [encodeB_eq, rowF3]

theorem rowU (imm : BitVec 20) (rd : RegNum) (op : BitVec 7) :
    encodeU imm rd op &&& 0x0000007F#32 = encodeR 0 0 0 0 0 op := by rw [encodeU_eq, rowOp]

theorem rowJ (off : BitVec 21) (rd : RegNum) (op : BitVec 7) :
    encodeJ off rd op &&& 0x0000007F#32 = encodeR 0 0 0 0 0 op := by rw [encodeJ_eq, rowOp]

/-- Opcode, funct3 and funct5 stay; aq and rl go. -/
theorem rowA (f5 : BitVec 5) (aq rl : Bool) (rs2 rs1 rd : RegNum) :
    encodeA f5 aq rl rs2 rs1 rd &&& 0xF800707F#32 = encodeA f5 false false 0 0 0 := by
  unfold encodeA
  rw [and_eq_iff]
  simp only [funct7Of_encodeR, rs2Of_encodeR, rs1Of_encodeR, funct3Of_encodeR, rdOf_encodeR, opcodeOf_encodeR]
  refine ⟨?_, and_free _ (by decide), and_free _ (by decide), and_fixed _ (by decide), and_free _ (by decide),
    and_fixed _ (by decide)⟩
  revert f5; cases aq <;> cases rl <;> decide

/-- LR.W: rs2 stays as well. -/
theorem rowLr (f5 : BitVec 5) (aq rl : Bool) (rs2 rs1 rd : RegNum) :
    encodeA f5 aq rl rs2 rs1 rd &&& 0xF9F0707F#32 = encodeA f5 false false rs2 0 0 := by
  unfold encodeA
  rw [and_eq_iff]
  simp only [funct7Of_encodeR, rs2Of_encodeR, rs1Of_encodeR, funct3Of_encodeR, rdOf_encodeR, opcodeOf_encodeR]
  refine ⟨?_, and_fixed _ (by decide), and_free _ (by decide), and_fixed _ (by decide), and_free _ (by decide),
    and_fixed _ (by decide)⟩
  revert f5; cases aq <;> cases rl <;> decide

/-! ### One lemma for every constructor -/

theorem EncodesRow.lui (rd : RegNum) (imm : BitVec 20) :
    EncodesRow.Statement (.lui rd imm) := (rowU ..).trans rfl

theorem EncodesRow.auipc (rd : RegNum) (imm : BitVec 20) :
    EncodesRow.Statement (.auipc rd imm) := (rowU ..).trans rfl

theorem EncodesRow.jal (rd : RegNum) (off : BitVec 21) :
    EncodesRow.Statement (.jal rd off) := (rowJ ..).trans rfl

theorem EncodesRow.jalr (rd rs1 : RegNum) (imm : BitVec 12) :
    EncodesRow.Statement (.jalr rd rs1 imm) := (rowI ..).trans rfl

theorem EncodesRow.beq (rs1 rs2 : RegNum) (off : BitVec 13) :
    EncodesRow.Statement (.beq rs1 rs2 off) := (rowB ..).trans rfl

theorem EncodesRow.bne (rs1 rs2 : RegNum) (off : BitVec 13) :
    EncodesRow.Statement (.bne rs1 rs2 off) := (rowB ..).trans rfl

theorem EncodesRow.blt (rs1 rs2 : RegNum) (off : BitVec 13) :
    EncodesRow.Statement (.blt rs1 rs2 off) := (rowB ..).trans rfl

theorem EncodesRow.bge (rs1 rs2 : RegNum) (off : BitVec 13) :
    EncodesRow.Statement (.bge rs1 rs2 off) := (rowB ..).trans rfl

theorem EncodesRow.bltu (rs1 rs2 : RegNum) (off : BitVec 13) :
    EncodesRow.Statement (.bltu rs1 rs2 off) := (rowB ..).trans rfl

theorem EncodesRow.bgeu (rs1 rs2 : RegNum) (off : BitVec 13) :
    EncodesRow.Statement (.bgeu rs1 rs2 off) := (rowB ..).trans rfl

theorem EncodesRow.lb (rd rs1 : RegNum) (imm : BitVec 12) :
    EncodesRow.Statement (.lb rd rs1 imm) := (rowI ..).trans rfl

theorem EncodesRow.lh (rd rs1 : RegNum) (imm : BitVec 12) :
    EncodesRow.Statement (.lh rd rs1 imm) := (rowI ..).trans rfl

theorem EncodesRow.lw (rd rs1 : RegNum) (imm : BitVec 12) :
    EncodesRow.Statement (.lw rd rs1 imm) := (rowI ..).trans rfl

theorem EncodesRow.lbu (rd rs1 : RegNum) (imm : BitVec 12) :
    EncodesRow.Statement (.lbu rd rs1 imm) := (rowI ..).trans rfl

theorem EncodesRow.lhu (rd rs1 : RegNum) (imm : BitVec 12) :
    EncodesRow.Statement (.lhu rd rs1 imm) := (rowI ..).trans rfl

theorem EncodesRow.sb (rs2 rs1 : RegNum) (imm : BitVec 12) :
    EncodesRow.Statement (.sb rs2 rs1 imm) := (rowS ..).trans rfl

theorem EncodesRow.sh (rs2 rs1 : RegNum) (imm : BitVec 12) :
    EncodesRow.Statement (.sh rs2 rs1 imm) := (rowS ..).trans rfl

theorem EncodesRow.sw (rs2 rs1 : RegNum) (imm : BitVec 12) :
    EncodesRow.Statement (.sw rs2 rs1 imm) := (rowS ..).trans rfl

theorem EncodesRow.addi (rd rs1 : RegNum) (imm : BitVec 12) :
    EncodesRow.Statement (.addi rd rs1 imm) := (rowI ..).trans rfl

theorem EncodesRow.slti (rd rs1 : RegNum) (imm : BitVec 12) :
    EncodesRow.Statement (.slti rd rs1 imm) := (rowI ..).trans rfl

theorem EncodesRow.sltiu (rd rs1 : RegNum) (imm : BitVec 12) :
    EncodesRow.Statement (.sltiu rd rs1 imm) := (rowI ..).trans rfl

theorem EncodesRow.xori (rd rs1 : RegNum) (imm : BitVec 12) :
    EncodesRow.Statement (.xori rd rs1 imm) := (rowI ..).trans rfl

theorem EncodesRow.ori (rd rs1 : RegNum) (imm : BitVec 12) :
    EncodesRow.Statement (.ori rd rs1 imm) := (rowI ..).trans rfl

theorem EncodesRow.andi (rd rs1 : RegNum) (imm : BitVec 12) :
    EncodesRow.Statement (.andi rd rs1 imm) := (rowI ..).trans rfl

theorem EncodesRow.slli (rd rs1 : RegNum) (shamt : BitVec 5) :
    EncodesRow.Statement (.slli rd rs1 shamt) := (rowR ..).trans rfl

theorem EncodesRow.srli (rd rs1 : RegNum) (shamt : BitVec 5) :
    EncodesRow.Statement (.srli rd rs1 shamt) := (rowR ..).trans rfl

theorem EncodesRow.srai (rd rs1 : RegNum) (shamt : BitVec 5) :
    EncodesRow.Statement (.srai rd rs1 shamt) := (rowR ..).trans rfl

theorem EncodesRow.add (rd rs1 rs2 : RegNum) :
    EncodesRow.Statement (.add rd rs1 rs2) := (rowR ..).trans rfl

theorem EncodesRow.sub (rd rs1 rs2 : RegNum) :
    EncodesRow.Statement (.sub rd rs1 rs2) := (rowR ..).trans rfl

theorem EncodesRow.sll (rd rs1 rs2 : RegNum) :
    EncodesRow.Statement (.sll rd rs1 rs2) := (rowR ..).trans rfl

theorem EncodesRow.slt (rd rs1 rs2 : RegNum) :
    EncodesRow.Statement (.slt rd rs1 rs2) := (rowR ..).trans rfl

theorem EncodesRow.sltu (rd rs1 rs2 : RegNum) :
    EncodesRow.Statement (.sltu rd rs1 rs2) := (rowR ..).trans rfl

theorem EncodesRow.xor (rd rs1 rs2 : RegNum) :
    EncodesRow.Statement (.xor rd rs1 rs2) := (rowR ..).trans rfl

theorem EncodesRow.srl (rd rs1 rs2 : RegNum) :
    EncodesRow.Statement (.srl rd rs1 rs2) := (rowR ..).trans rfl

theorem EncodesRow.sra (rd rs1 rs2 : RegNum) :
    EncodesRow.Statement (.sra rd rs1 rs2) := (rowR ..).trans rfl

theorem EncodesRow.or (rd rs1 rs2 : RegNum) :
    EncodesRow.Statement (.or rd rs1 rs2) := (rowR ..).trans rfl

theorem EncodesRow.and (rd rs1 rs2 : RegNum) :
    EncodesRow.Statement (.and rd rs1 rs2) := (rowR ..).trans rfl

theorem EncodesRow.fence (fm pred succ : BitVec 4) (rs1 rd : RegNum) :
    EncodesRow.Statement (.fence fm pred succ rs1 rd) := (rowI ..).trans rfl

theorem EncodesRow.ecall :
    EncodesRow.Statement (.ecall) := rfl

theorem EncodesRow.ebreak :
    EncodesRow.Statement (.ebreak) := rfl

theorem EncodesRow.mul (rd rs1 rs2 : RegNum) :
    EncodesRow.Statement (.mul rd rs1 rs2) := (rowR ..).trans rfl

theorem EncodesRow.mulh (rd rs1 rs2 : RegNum) :
    EncodesRow.Statement (.mulh rd rs1 rs2) := (rowR ..).trans rfl

theorem EncodesRow.mulhsu (rd rs1 rs2 : RegNum) :
    EncodesRow.Statement (.mulhsu rd rs1 rs2) := (rowR ..).trans rfl

theorem EncodesRow.mulhu (rd rs1 rs2 : RegNum) :
    EncodesRow.Statement (.mulhu rd rs1 rs2) := (rowR ..).trans rfl

theorem EncodesRow.div (rd rs1 rs2 : RegNum) :
    EncodesRow.Statement (.div rd rs1 rs2) := (rowR ..).trans rfl

theorem EncodesRow.divu (rd rs1 rs2 : RegNum) :
    EncodesRow.Statement (.divu rd rs1 rs2) := (rowR ..).trans rfl

theorem EncodesRow.rem (rd rs1 rs2 : RegNum) :
    EncodesRow.Statement (.rem rd rs1 rs2) := (rowR ..).trans rfl

theorem EncodesRow.remu (rd rs1 rs2 : RegNum) :
    EncodesRow.Statement (.remu rd rs1 rs2) := (rowR ..).trans rfl

theorem EncodesRow.lrw (rd rs1 : RegNum) (aq rl : Bool) :
    EncodesRow.Statement (.lrw rd rs1 aq rl) := (rowLr ..).trans rfl

theorem EncodesRow.scw (rd rs1 rs2 : RegNum) (aq rl : Bool) :
    EncodesRow.Statement (.scw rd rs1 rs2 aq rl) := (rowA ..).trans rfl

theorem EncodesRow.amoswapw (rd rs1 rs2 : RegNum) (aq rl : Bool) :
    EncodesRow.Statement (.amoswapw rd rs1 rs2 aq rl) := (rowA ..).trans rfl

theorem EncodesRow.amoaddw (rd rs1 rs2 : RegNum) (aq rl : Bool) :
    EncodesRow.Statement (.amoaddw rd rs1 rs2 aq rl) := (rowA ..).trans rfl

theorem EncodesRow.amoxorw (rd rs1 rs2 : RegNum) (aq rl : Bool) :
    EncodesRow.Statement (.amoxorw rd rs1 rs2 aq rl) := (rowA ..).trans rfl

theorem EncodesRow.amoandw (rd rs1 rs2 : RegNum) (aq rl : Bool) :
    EncodesRow.Statement (.amoandw rd rs1 rs2 aq rl) := (rowA ..).trans rfl

theorem EncodesRow.amoorw (rd rs1 rs2 : RegNum) (aq rl : Bool) :
    EncodesRow.Statement (.amoorw rd rs1 rs2 aq rl) := (rowA ..).trans rfl

theorem EncodesRow.amominw (rd rs1 rs2 : RegNum) (aq rl : Bool) :
    EncodesRow.Statement (.amominw rd rs1 rs2 aq rl) := (rowA ..).trans rfl

theorem EncodesRow.amomaxw (rd rs1 rs2 : RegNum) (aq rl : Bool) :
    EncodesRow.Statement (.amomaxw rd rs1 rs2 aq rl) := (rowA ..).trans rfl

theorem EncodesRow.amominuw (rd rs1 rs2 : RegNum) (aq rl : Bool) :
    EncodesRow.Statement (.amominuw rd rs1 rs2 aq rl) := (rowA ..).trans rfl

theorem EncodesRow.amomaxuw (rd rs1 rs2 : RegNum) (aq rl : Bool) :
    EncodesRow.Statement (.amomaxuw rd rs1 rs2 aq rl) := (rowA ..).trans rfl

theorem EncodesRow.csrrw (rd : RegNum) (csr : CsrNum) (rs1 : RegNum) :
    EncodesRow.Statement (.csrrw rd csr rs1) := (rowI ..).trans rfl

theorem EncodesRow.csrrs (rd : RegNum) (csr : CsrNum) (rs1 : RegNum) :
    EncodesRow.Statement (.csrrs rd csr rs1) := (rowI ..).trans rfl

theorem EncodesRow.csrrc (rd : RegNum) (csr : CsrNum) (rs1 : RegNum) :
    EncodesRow.Statement (.csrrc rd csr rs1) := (rowI ..).trans rfl

theorem EncodesRow.csrrwi (rd : RegNum) (csr : CsrNum) (uimm : BitVec 5) :
    EncodesRow.Statement (.csrrwi rd csr uimm) := (rowI ..).trans rfl

theorem EncodesRow.csrrsi (rd : RegNum) (csr : CsrNum) (uimm : BitVec 5) :
    EncodesRow.Statement (.csrrsi rd csr uimm) := (rowI ..).trans rfl

theorem EncodesRow.csrrci (rd : RegNum) (csr : CsrNum) (uimm : BitVec 5) :
    EncodesRow.Statement (.csrrci rd csr uimm) := (rowI ..).trans rfl

theorem EncodesRow.mret :
    EncodesRow.Statement (.mret) := rfl

theorem EncodesRow.wfi :
    EncodesRow.Statement (.wfi) := rfl

end Sys2Proof.Laws
end

