-- ==== Sys2Proof/Tests/Slice0.lean ====
section
/-! SUPPORT. The model's own tests: ill-formed terms, templates, written-out words, one step per case from the vectors of
spec/95_test_vectors.md, and for every statement with hypotheses states and operands that meet them. -/

namespace Sys2Proof.Tests

open Sys2Proof.Machine

/-! ### Helpers -/

/-- The next state of an answer. -/
def nextOf : Result → Option State
  | .next s => some s
  | .fault _ => none
  | .refused _ => none

/-- The fault of an answer. -/
def faultOf : Result → Option Fault
  | .next _ => none
  | .fault f => some f
  | .refused _ => none

theorem next_of {r : Result} (h : (nextOf r).isSome = true) : ∃ t, r = .next t := by
  cases r with
  | next t => exact ⟨t, rfl⟩
  | fault f => cases h
  | refused x => cases h

/-- The machine after reset with general registers and words of RAM as given, and the vectors' mtvec. -/
def machine (x : List (RegNum × Word)) (m : List (Nat × Nat)) : State :=
  let s := x.foldl (fun s p => s.setReg p.1 p.2) { State.reset with mtvec := 0x80000200 }
  { s with mem := m.foldl (fun mem p => ramWrite mem p.1 4 p.2) s.mem }

/-- One step on a word placed at pc: a register and pc afterwards. -/
def regStep (x : List (RegNum × Word)) (m : List (Nat × Nat)) (w : Nat) (r : RegNum) : Option (Word × Word) :=
  (nextOf (step ((machine x m).withFetchWord 32 w))).map fun t => (t.reg r, t.pc)

/-- One step on a word placed at pc: a register and a word of RAM afterwards. -/
def memStep (x : List (RegNum × Word)) (m : List (Nat × Nat)) (w : Nat) (r : RegNum) (a : Nat) : Option (Word × Word) :=
  (nextOf (step ((machine x m).withFetchWord 32 w))).map fun t => (t.reg r, t.wordAt a)

/-- One step on a word placed at pc of a machine: its fault. -/
def faultStep (x : List (RegNum × Word)) (w : Nat) : Option Fault := faultOf (step ((machine x []).withFetchWord 32 w))

/-- mcause, mepc, mtval, mstatus, extraflags and pc after one step on a word placed at pc. -/
def trapStep (s : State) (w : Nat) : Option (List Word) :=
  (nextOf (step (s.withFetchWord 32 w))).map fun t => [t.mcause, t.mepc, t.mtval, t.mstatus, t.extraflags, t.pc]

/-! ### Well-formedness: a term that each check refuses -/

theorem test_wf_jal : (Instr.jal 1 7).wellFormed = false ∧ (Instr.jal 1 8).wellFormed = true := by decide
theorem test_wf_beq : (Instr.beq 1 2 5).wellFormed = false ∧ (Instr.beq 1 2 (-8)).wellFormed = true := by decide
theorem test_wf_bne : (Instr.bne 1 2 (-1)).wellFormed = false ∧ (Instr.bne 1 2 4094).wellFormed = true := by decide
theorem test_wf_blt : (Instr.blt 1 2 4095).wellFormed = false ∧ (Instr.blt 1 2 0).wellFormed = true := by decide
theorem test_wf_bge : (Instr.bge 1 2 3).wellFormed = false ∧ (Instr.bge 1 2 2).wellFormed = true := by decide
theorem test_wf_bltu : (Instr.bltu 1 2 1).wellFormed = false ∧ (Instr.bltu 1 2 2048).wellFormed = true := by decide
theorem test_wf_bgeu : (Instr.bgeu 1 2 (-3)).wellFormed = false ∧ (Instr.bgeu 1 2 (-4096)).wellFormed = true := by decide

/-! ### The templates of R153, written position by position -/

def any (n : Nat) : List PatternBit := List.replicate n .any

/-- The literal positions of an `n`-bit field. -/
def lit : Nat → Nat → List PatternBit
  | 0, _ => []
  | n + 1, v => (if v.testBit n then .one else .zero) :: lit n v

def byOpcode (op : Nat) : List PatternBit := any 25 ++ lit 7 op
def byFunct3 (f3 op : Nat) : List PatternBit := any 17 ++ lit 3 f3 ++ any 5 ++ lit 7 op
def byFunct7 (f7 f3 op : Nat) : List PatternBit := lit 7 f7 ++ any 10 ++ lit 3 f3 ++ any 5 ++ lit 7 op
def byFunct5 (f5 : Nat) : List PatternBit := lit 5 f5 ++ any 12 ++ lit 3 0b010 ++ any 5 ++ lit 7 0b0101111

theorem test_templates_i : variantsI.map Variant.template = List.map Template.ofPattern
    [byOpcode 0b0110111, byOpcode 0b0010111, byOpcode 0b1101111, byFunct3 0b000 0b1100111, byOpcode 0b1100011, byOpcode 0b0000011,
     byOpcode 0b0100011, any 18 ++ lit 2 0b01 ++ any 5 ++ lit 7 0b0010011, byOpcode 0b0010011,
     lit 1 0 ++ any 1 ++ lit 5 0 ++ any 18 ++ lit 7 0b0110011, byFunct3 0b000 0b0001111,
     lit 32 0b00000000000000000000000001110011, lit 32 0b00000000000100000000000001110011] := by decide

theorem test_templates_m : variantsM.map Variant.template =
    [0, 1, 2, 3, 4, 5, 6, 7].map (fun f3 => Template.ofPattern (byFunct7 0b0000001 f3 0b0110011)) := by decide

theorem test_templates_a : variantsA.map Variant.template = List.map Template.ofPattern
    (([lit 5 0b00010 ++ any 2 ++ lit 5 0 ++ any 5 ++ lit 3 0b010 ++ any 5 ++ lit 7 0b0101111]) ++
     [0b00011, 0b00001, 0b00000, 0b00100, 0b01100, 0b01000, 0b10000, 0b10100, 0b11000, 0b11100].map byFunct5) := by decide

theorem test_templates_z : variantsZ.map Variant.template = List.map Template.ofPattern
    ([0b001, 0b010, 0b011, 0b101, 0b110, 0b111].map (fun f3 => byFunct3 f3 0b1110011) ++
     [lit 32 0b00110000001000000000000001110011, lit 32 0b00010000010100000000000001110011]) := by decide

/-! ### Every constructor's decoding, from a word written out field by field (spec/30_encoding.md R133 to R141) -/

def decodes (l : List (Nat × Instr)) : Bool := l.all fun p => decide (decodeTableWord 32 p.1 = some p.2)

/-- R200, R201, R250, R251. -/
theorem test_decode_upper_and_jumps : decodes
    [(0b11111111111111111111_00101_0110111, .lui 5 0xFFFFF),
     (0b00010010001101000101_00101_0010111, .auipc 5 0x12345),
     (0b0_0000000100_0_00000000_00001_1101111, .jal 1 8),
     (0b1_1111111110_1_11111111_00000_1101111, .jal 0 (-4)),
     (0b1_0000000000_0_00000000_11111_1101111, .jal 31 (-1048576)),
     (0b0_0101010101_1_01010101_00010_1101111, .jal 2 0x55AAA),
     (0b000000000011_00101_000_00001_1100111, .jalr 1 5 3),
     (0b100000000000_11111_000_11110_1100111, .jalr 30 31 (-2048))] = true := by decide

/-- R256 to R261. -/
theorem test_decode_branches : decodes
    [(0b0_000000_00010_00001_000_1000_0_1100011, .beq 1 2 16),
     (0b1_111111_00010_00001_000_1100_1_1100011, .beq 1 2 (-8)),
     (0b1_000000_11111_11110_001_0000_0_1100011, .bne 30 31 (-4096)),
     (0b0_111111_00011_00100_100_1111_1_1100011, .blt 4 3 4094),
     (0b0_010101_00101_00110_101_0101_1_1100011, .bge 6 5 0xAAA),
     (0b0_101010_00111_01000_110_1010_0_1100011, .bltu 8 7 0x554),
     (0b0_000000_01001_01010_111_0000_1_1100011, .bgeu 10 9 2048)] = true := by decide

/-- R281 to R289. -/
theorem test_decode_loads_and_stores : decodes
    [(0b000000000001_00001_000_00011_0000011, .lb 3 1 1),
     (0b000000000010_00001_001_00011_0000011, .lh 3 1 2),
     (0b111111111100_00001_010_00011_0000011, .lw 3 1 (-4)),
     (0b100000000000_11111_100_11110_0000011, .lbu 30 31 (-2048)),
     (0b011111111111_00010_101_00100_0000011, .lhu 4 2 2047),
     (0b0000000_00010_00001_000_00011_0100011, .sb 2 1 3),
     (0b0111111_11110_11111_001_11111_0100011, .sh 30 31 2047),
     (0b1111111_00010_00001_010_11000_0100011, .sw 2 1 (-8))] = true := by decide

/-- R206 to R218. -/
theorem test_decode_immediates : decodes
    [(0b000000001010_00001_000_00010_0010011, .addi 2 1 10),
     (0b111111111111_00001_010_00011_0010011, .slti 3 1 (-1)),
     (0b100000000000_00001_011_00011_0010011, .sltiu 3 1 (-2048)),
     (0b011111111111_00100_100_00101_0010011, .xori 5 4 2047),
     (0b100000000000_00001_110_00011_0010011, .ori 3 1 (-2048)),
     (0b011111111111_00001_111_00011_0010011, .andi 3 1 0x7FF),
     (0b0000000_11111_00001_001_00011_0010011, .slli 3 1 31),
     (0b0000000_00100_00001_101_00011_0010011, .srli 3 1 4),
     (0b0100000_10000_11110_101_11111_0010011, .srai 31 30 16)] = true := by decide

/-- R221 to R230. -/
theorem test_decode_register_register : decodes
    [(0b0000000_00010_00001_000_00011_0110011, .add 3 1 2),
     (0b0100000_00010_00001_000_00011_0110011, .sub 3 1 2),
     (0b0000000_00010_00001_001_00011_0110011, .sll 3 1 2),
     (0b0000000_00010_00001_010_00011_0110011, .slt 3 1 2),
     (0b0000000_00010_00001_011_00011_0110011, .sltu 3 1 2),
     (0b0000000_00010_00001_100_00011_0110011, .xor 3 1 2),
     (0b0000000_00010_00001_101_00011_0110011, .srl 3 1 2),
     (0b0100000_00010_00001_101_00011_0110011, .sra 3 1 2),
     (0b0000000_10001_01001_110_11111_0110011, .or 31 9 17),
     (0b0000000_00010_00001_111_00011_0110011, .and 3 1 2)] = true := by decide

/-- R320 to R327. -/
theorem test_decode_multiply_divide : decodes
    [(0b0000001_00010_00001_000_00011_0110011, .mul 3 1 2),
     (0b0000001_00010_00001_001_00011_0110011, .mulh 3 1 2),
     (0b0000001_00010_00001_010_00011_0110011, .mulhsu 3 1 2),
     (0b0000001_00010_00001_011_00011_0110011, .mulhu 3 1 2),
     (0b0000001_00010_00001_100_00011_0110011, .div 3 1 2),
     (0b0000001_00010_00001_101_00011_0110011, .divu 3 1 2),
     (0b0000001_00010_00001_110_00011_0110011, .rem 3 1 2),
     (0b0000001_00010_00001_111_00011_0110011, .remu 3 1 2)] = true := by decide

/-- R350 to R364. -/
theorem test_decode_atomics : decodes
    [(0b00010_1_0_00000_00001_010_00011_0101111, .lrw 3 1 true false),
     (0b00011_0_1_00010_00001_010_00100_0101111, .scw 4 1 2 false true),
     (0b00001_0_0_00010_00001_010_00011_0101111, .amoswapw 3 1 2 false false),
     (0b00000_1_0_00010_00001_010_00011_0101111, .amoaddw 3 1 2 true false),
     (0b00100_0_1_00010_00001_010_00011_0101111, .amoxorw 3 1 2 false true),
     (0b01100_1_1_00010_00001_010_00011_0101111, .amoandw 3 1 2 true true),
     (0b01000_0_0_00010_00001_010_00011_0101111, .amoorw 3 1 2 false false),
     (0b10000_1_0_00010_00001_010_00011_0101111, .amominw 3 1 2 true false),
     (0b10100_0_1_00010_00001_010_00011_0101111, .amomaxw 3 1 2 false true),
     (0b11000_1_1_00010_00001_010_00011_0101111, .amominuw 3 1 2 true true),
     (0b11100_0_0_00010_00001_010_00011_0101111, .amomaxuw 3 1 2 false false)] = true := by decide

/-- R290, R310, R311, R400 to R405, R420, R421. -/
theorem test_decode_system : decodes
    [(0b0000_1111_1111_00000_000_00000_0001111, .fence 0 15 15 0 0),
     (0b1000_0011_0101_00010_000_00011_0001111, .fence 8 3 5 2 3),
     (0b000000000000_00000_000_00000_1110011, .ecall),
     (0b000000000001_00000_000_00000_1110011, .ebreak),
     (0b001101000000_00001_001_00011_1110011, .csrrw 3 0x340 1),
     (0b110000000000_00000_010_00011_1110011, .csrrs 3 0xC00 0),
     (0b001100000000_00001_011_00011_1110011, .csrrc 3 0x300 1),
     (0b001100000100_11111_101_00011_1110011, .csrrwi 3 0x304 31),
     (0b111100010100_00000_110_00011_1110011, .csrrsi 3 0xF14 0),
     (0b001100000000_01000_111_00011_1110011, .csrrci 3 0x300 8),
     (0b001100000010_00000_000_00000_1110011, .mret),
     (0b000100000101_00000_000_00000_1110011, .wfi)] = true := by decide

/-- R160, class 3 and class 2; and a table word of fewer bits is padded with zeros. -/
theorem test_decode_rejects :
    decodeTableWord 32 0 = none ∧ decodeTableWord 32 0xFFFFFFFF = none ∧ decodeTableWord 32 0x000000F3 = none ∧
    decodeTableWord 32 0x1020A1AF = none ∧ decodeTableWord 32 0x0000100F = none ∧ decodeTableWord 32 0x340041F3 = none ∧
    decodeTableWord 32 0x0200D193 = none ∧ decodeTableWord 32 0x00001063 = some (.bne 0 0 0) := by decide

/-! ### One step per case -/

/-- 95_test_vectors.md 41.1 to 41.15. -/
theorem test_integer_immediates :
    regStep [] [] 0xFFFFF2B7 5 = some (0xFFFFF000, 0x80000004) ∧
    regStep [] [] 0x00001297 5 = some (0x80001000, 0x80000004) ∧
    regStep [] [] 0x80000297 5 = some (0x0, 0x80000004) ∧
    regStep [(1, 0x5)] [] 0x00A08113 2 = some (0xF, 0x80000004) ∧
    regStep [(1, 0x7FFFFFFF)] [] 0x00108113 2 = some (0x80000000, 0x80000004) ∧
    regStep [(1, 0xFFFFFFFE)] [] 0xFFF0A193 3 = some (0x1, 0x80000004) ∧
    regStep [(1, 0x80000000)] [] 0x0000A193 3 = some (0x1, 0x80000004) ∧
    regStep [(1, 0x5)] [] 0xFFF0B193 3 = some (0x1, 0x80000004) ∧
    regStep [(1, 0x0)] [] 0x0010B193 3 = some (0x1, 0x80000004) ∧
    regStep [(1, 0xF0F0F0F)] [] 0xFFF0C193 3 = some (0xF0F0F0F0, 0x80000004) ∧
    regStep [(1, 0x80000000)] [] 0x7FF0E193 3 = some (0x800007FF, 0x80000004) ∧
    regStep [(1, 0x12345678)] [] 0xFF00F193 3 = some (0x12345670, 0x80000004) := by decide

/-- 95_test_vectors.md 41.16 to 41.19, 41.25, 41.30, 41.31. -/
theorem test_integer_shifts :
    regStep [(1, 0x3)] [] 0x01F09193 3 = some (0x80000000, 0x80000004) ∧
    regStep [(1, 0x80000000)] [] 0x01F0D193 3 = some (0x1, 0x80000004) ∧
    regStep [(1, 0x80000000)] [] 0x41F0D193 3 = some (0xFFFFFFFF, 0x80000004) ∧
    regStep [(1, 0x80000000)] [] 0x4000D193 3 = some (0x80000000, 0x80000004) ∧
    regStep [(1, 0x1), (2, 0x21)] [] 0x002091B3 3 = some (0x2, 0x80000004) ∧
    regStep [(1, 0x80000000), (2, 0xFFFFFFFF)] [] 0x0020D1B3 3 = some (0x1, 0x80000004) ∧
    regStep [(1, 0x80000000), (2, 0x4)] [] 0x4020D1B3 3 = some (0xF8000000, 0x80000004) := by decide

/-- 95_test_vectors.md 41.21 to 41.33. -/
theorem test_integer_registers :
    regStep [(1, 0xFFFFFFFF), (2, 0x1)] [] 0x002081B3 3 = some (0x0, 0x80000004) ∧
    regStep [(1, 0x40000000)] [] 0x001080B3 1 = some (0x80000000, 0x80000004) ∧
    regStep [(1, 0x0), (2, 0x1)] [] 0x402081B3 3 = some (0xFFFFFFFF, 0x80000004) ∧
    regStep [(1, 0x80000000), (2, 0x1)] [] 0x402081B3 3 = some (0x7FFFFFFF, 0x80000004) ∧
    regStep [(1, 0x80000000), (2, 0x7FFFFFFF)] [] 0x0020A1B3 3 = some (0x1, 0x80000004) ∧
    regStep [(1, 0x80000000), (2, 0x7FFFFFFF)] [] 0x0020B1B3 3 = some (0x0, 0x80000004) ∧
    regStep [(2, 0x5)] [] 0x002031B3 3 = some (0x1, 0x80000004) ∧
    regStep [(1, 0xDEADBEEF)] [] 0x0010C1B3 3 = some (0x0, 0x80000004) ∧
    regStep [(1, 0xF0), (2, 0xF)] [] 0x0020E1B3 3 = some (0xFF, 0x80000004) ∧
    regStep [(1, 0xF0), (2, 0x3C)] [] 0x0020F1B3 3 = some (0x30, 0x80000004) := by decide

/-- 95_test_vectors.md 42.1 to 42.16. -/
theorem test_jumps_and_branches :
    regStep [] [] 0x008000EF 1 = some (0x80000004, 0x80000008) ∧
    regStep [] [] 0xFFDFF06F 0 = some (0, 0x7FFFFFFC) ∧
    regStep [(2, 0x80000101)] [] 0x000100E7 1 = some (0x80000004, 0x80000100) ∧
    regStep [(1, 0x80000100)] [] 0x004080E7 1 = some (0x80000004, 0x80000104) ∧
    regStep [(1, 0x5), (2, 0x5)] [] 0x00208863 0 = some (0, 0x80000010) ∧
    regStep [(1, 0x5), (2, 0x6)] [] 0x00208863 0 = some (0, 0x80000004) ∧
    regStep [(1, 0x5), (2, 0x6)] [] 0xFE209CE3 0 = some (0, 0x7FFFFFF8) ∧
    regStep [] [] 0x7E001FE3 0 = some (0, 0x80000004) ∧
    regStep [(1, 0xFFFFFFFF), (2, 0x0)] [] 0x0020C463 0 = some (0, 0x80000008) ∧
    regStep [(1, 0x0), (2, 0x0)] [] 0x0020D463 0 = some (0, 0x80000008) ∧
    regStep [(1, 0xFFFFFFFF), (2, 0x0)] [] 0x0020E463 0 = some (0, 0x80000004) ∧
    regStep [(1, 0xFFFFFFFF), (2, 0x0)] [] 0x0020F463 0 = some (0, 0x80000008) := by decide

/-- 95_test_vectors.md 43.1 to 43.7, 43.11. -/
theorem test_loads :
    regStep [(1, 0x80000100)] [(0x80000100, 0x80FF7F01)] 0x00108183 3 = some (0x7F, 0x80000004) ∧
    regStep [(1, 0x80000100)] [(0x80000100, 0x80FF7F01)] 0x0030C183 3 = some (0x80, 0x80000004) ∧
    regStep [(1, 0x80000100)] [(0x80000100, 0x80FF7F01)] 0x00209183 3 = some (0xFFFF80FF, 0x80000004) ∧
    regStep [(1, 0x80000100)] [(0x80000100, 0x80FF7F01)] 0x0020D183 3 = some (0x80FF, 0x80000004) ∧
    regStep [(1, 0x80000100)] [(0x80000100, 0x44332211), (0x80000104, 0x88776655)] 0x0010A183 3 = some (0x55443322, 0x80000004) ∧
    regStep [(1, 0x8000FFFC)] [(0x8000FFFC, 0x1020304)] 0x0000A183 3 = some (0x1020304, 0x80000004) := by decide

/-- 95_test_vectors.md 43.8 to 43.10. -/
theorem test_stores :
    memStep [(1, 0x80000100), (2, 0x12345678)] [(0x80000100, 0xAAAAAAAA)] 0x00208023 0 0x80000100 = some (0, 0xAAAAAA78) ∧
    memStep [(1, 0x80000100), (2, 0x12345678)] [(0x80000100, 0xAAAAAAAA)] 0x002090A3 0 0x80000100 = some (0, 0xAA5678AA) ∧
    memStep [(1, 0x80000100), (2, 0x12345678)] [] 0x0020A023 0 0x80000100 = some (0, 0x12345678) := by decide

/-- 95_test_vectors.md 45.1 to 45.7. -/
theorem test_multiply :
    regStep [(1, 0x12345678), (2, 0x9ABCDEF0)] [] 0x022081B3 3 = some (0x242D2080, 0x80000004) ∧
    regStep [(1, 0xFFFFFFFF), (2, 0xFFFFFFFF)] [] 0x022081B3 3 = some (0x1, 0x80000004) ∧
    regStep [(1, 0x80000000), (2, 0x80000000)] [] 0x022091B3 3 = some (0x40000000, 0x80000004) ∧
    regStep [(1, 0xFFFFFFFF), (2, 0x1)] [] 0x022091B3 3 = some (0xFFFFFFFF, 0x80000004) ∧
    regStep [(1, 0xFFFFFFFF), (2, 0xFFFFFFFF)] [] 0x0220A1B3 3 = some (0xFFFFFFFF, 0x80000004) ∧
    regStep [(1, 0x1), (2, 0xFFFFFFFF)] [] 0x0220A1B3 3 = some (0x0, 0x80000004) ∧
    regStep [(1, 0xFFFFFFFF), (2, 0xFFFFFFFF)] [] 0x0220B1B3 3 = some (0xFFFFFFFE, 0x80000004) := by decide

/-- 95_test_vectors.md 45.8 to 45.20. -/
theorem test_divide :
    regStep [(1, 0xFFFFFFF9), (2, 0x2)] [] 0x0220C1B3 3 = some (0xFFFFFFFD, 0x80000004) ∧
    regStep [(1, 0x80000000), (2, 0xFFFFFFFF)] [] 0x0220C1B3 3 = some (0x80000000, 0x80000004) ∧
    regStep [(1, 0xFFFFFFFE), (2, 0x2)] [] 0x0220D1B3 3 = some (0x7FFFFFFF, 0x80000004) ∧
    regStep [(1, 0x7), (2, 0x0)] [] 0x0220D1B3 3 = some (0xFFFFFFFF, 0x80000004) ∧
    regStep [(1, 0xFFFFFFF9), (2, 0x2)] [] 0x0220E1B3 3 = some (0xFFFFFFFF, 0x80000004) ∧
    regStep [(1, 0x80000000), (2, 0xFFFFFFFF)] [] 0x0220E1B3 3 = some (0x0, 0x80000004) ∧
    regStep [(1, 0x7), (2, 0x3)] [] 0x0220F1B3 3 = some (0x1, 0x80000004) ∧
    regStep [(1, 0xFFFFFFFF), (2, 0x10)] [] 0x0220F1B3 3 = some (0xF, 0x80000004) := by decide

/-- 95_test_vectors.md 46.7 to 46.16. -/
theorem test_atomics :
    memStep [(1, 0x80000100), (2, 0x11)] [(0x80000100, 0xFFFFFFF0)] 0x0820A1AF 3 0x80000100 = some (0xFFFFFFF0, 0x11) ∧
    memStep [(1, 0x80000100), (2, 0x11)] [(0x80000100, 0xFFFFFFF0)] 0x0020A1AF 3 0x80000100 = some (0xFFFFFFF0, 0x1) ∧
    memStep [(1, 0x80000100)] [(0x80000100, 0x5)] 0x0010A0AF 1 0x80000100 = some (0x5, 0x80000105) ∧
    memStep [(1, 0x80000100), (2, 0xFF)] [(0x80000100, 0xFFFFFFF0)] 0x2020A1AF 3 0x80000100 = some (0xFFFFFFF0, 0xFFFFFF0F) ∧
    memStep [(1, 0x80000100), (2, 0xFF)] [(0x80000100, 0xFFFFFFF0)] 0x6020A1AF 3 0x80000100 = some (0xFFFFFFF0, 0xF0) ∧
    memStep [(1, 0x80000100), (2, 0xFF00)] [(0x80000100, 0xFFFFFFF0)] 0x4020A1AF 3 0x80000100 = some (0xFFFFFFF0, 0xFFFFFFF0) ∧
    memStep [(1, 0x80000100), (2, 0x1)] [(0x80000100, 0xFFFFFFF0)] 0x8020A1AF 3 0x80000100 = some (0xFFFFFFF0, 0xFFFFFFF0) ∧
    memStep [(1, 0x80000100), (2, 0x1)] [(0x80000100, 0xFFFFFFF0)] 0xA020A1AF 3 0x80000100 = some (0xFFFFFFF0, 0x1) ∧
    memStep [(1, 0x80000100), (2, 0x1)] [(0x80000100, 0xFFFFFFF0)] 0xC020A1AF 3 0x80000100 = some (0xFFFFFFF0, 0x1) ∧
    memStep [(1, 0x80000100), (2, 0x1)] [(0x80000100, 0xFFFFFFF0)] 0xE020A1AF 3 0x80000100 = some (0xFFFFFFF0, 0xFFFFFFF0) := by decide

/-- 95_test_vectors.md 46.1 to 46.6. -/
theorem test_reservations :
    trapStep { machine [(1, 0x80000100)] [(0x80000100, 0x55)] with extraflags := 1 } 0x1000A1AF = some [0, 0, 0, 0, 0x801, 0x80000004] ∧
    memStep [(1, 0x80000000), (2, 0x77)] [] 0x1820A22F 4 0x80000000 = some (0, 0x77) ∧
    memStep [(1, 0x80000104), (2, 0x77), (4, 9)] [] 0x1820A22F 4 0x80000104 = some (1, 0) := by decide

/-- 95_test_vectors.md 43.12 to 43.14, 44.4, 46.17, 46.19. -/
theorem test_faults :
    faultStep [(1, 0x8000FFFE)] 0x0000A183 = some (.outOfRange 0x8000FFFE) ∧
    faultStep [(1, 0)] 0x0000A183 = some (.noPeripheral 0) ∧
    faultStep [(1, 0x80010000)] 0x0020A023 = some (.noPeripheral 0x80010000) ∧
    faultStep [(1, 0x20000000)] 0x0820A1AF = some (.noPeripheral 0x20000000) ∧
    faultStep [] 0x000000F3 = some (.unmatched 0x000000F3) := by decide

/-- 95_test_vectors.md 43.15, 43.16; 20_memory.md R112, R113: the UART. -/
theorem test_uart :
    ((nextOf (step ((machine [(1, 0x10000000), (2, 0x141)] []).withFetchWord 32 0x00208023))).map State.uartOut) = some [65] ∧
    regStep [(1, 0x10000000)] [] 0x0000C183 3 = some (0, 0x80000004) ∧
    ((nextOf (exec (.lw 3 1 0) { machine [(1, 0x10000000)] [] with uartIn := [0x41, 0x42] })).map fun t => (t.reg 3, t.uartIn)) =
      some (0x41, [0x42]) ∧
    ((nextOf (exec (.lbu 3 1 5) { machine [(1, 0x10000000)] [] with uartIn := [0x41] })).map fun t => (t.reg 3, t.uartIn)) =
      some (0x61, [0x41]) := by decide

/-- 95_test_vectors.md 44.1 to 44.3, 41.20, 43.19; R310 with priv 2. -/
theorem test_traps :
    trapStep (machine [] []) 0x00000073 = some [8, 0x80000004, 0x80000004, 0, 3, 0x80000200] ∧
    trapStep { machine [] [] with extraflags := 2 } 0x00000073 = some [10, 0x80000004, 0x80000004, 0x1000, 3, 0x80000200] ∧
    trapStep { machine [] [] with extraflags := 3, mstatus := 8 } 0x00100073 =
      some [3, 0x80000004, 0x80000004, 0x1880, 3, 0x80000200] ∧
    trapStep (machine [(1, 0x80000000)] []) 0x0200D193 = some [2, 0x80000004, 0x80000004, 0, 3, 0x80000200] ∧
    trapStep (machine [] []) 0x00003003 = some [2, 0x80000004, 0x80000004, 0, 3, 0x80000200] := by decide

/-- 95_test_vectors.md 47.1 to 47.6. -/
theorem test_csr_registers :
    ((nextOf (exec (.csrrw 1 0x340 1) { machine [(1, 5)] [] with mscratch := 9 })).map fun t => (t.reg 1, t.mscratch)) = some (9, 5) ∧
    ((nextOf (exec (.csrrs 3 0x300 1) { machine [(1, 8)] [] with mstatus := 0x1800 })).map fun t => (t.reg 3, t.mstatus)) =
      some (0x1800, 0x1808) ∧
    ((nextOf (exec (.csrrc 3 0x300 1) { machine [(1, 0x1800)] [] with mstatus := 0x1888 })).map fun t => (t.reg 3, t.mstatus)) =
      some (0x1888, 0x88) ∧
    trapStep (machine [] []) 0xC00011F3 = some [2, 0x80000004, 0x80000004, 0, 3, 0x80000200] ∧
    trapStep (machine [] []) 0xC000A1F3 = some [2, 0x80000004, 0x80000004, 0, 3, 0x80000200] := by decide

/-- 95_test_vectors.md 47.8 to 47.14. -/
theorem test_csr_immediates :
    ((nextOf (exec (.csrrwi 3 0x304 31) { machine [] [] with mie := 0x80 })).map fun t => (t.reg 3, t.mie)) = some (0x80, 0x1F) ∧
    ((nextOf (exec (.csrrsi 3 0x300 8) (machine [] []))).map fun t => (t.reg 3, t.mstatus)) = some (0, 8) ∧
    ((nextOf (exec (.csrrci 3 0x300 8) { machine [] [] with mstatus := 0x88 })).map fun t => (t.reg 3, t.mstatus)) = some (0x88, 0x80) ∧
    trapStep (machine [] []) 0xF140E1F3 = some [2, 0x80000004, 0x80000004, 0, 3, 0x80000200] ∧
    trapStep (machine [] []) 0x301021F3 = some [2, 0x80000004, 0x80000004, 0, 3, 0x80000200] := by decide

/-- 95_test_vectors.md 43.17, 47.17 to 47.20. -/
theorem test_fence_mret_wfi :
    trapStep (machine [] []) 0x0FF0000F = some [0, 0, 0, 0, 0, 0x80000004] ∧
    trapStep { machine [] [] with mstatus := 0x1880, mepc := 0x80000040, extraflags := 3 } 0x30200073 =
      some [0, 0x80000040, 0, 0x88, 3, 0x80000040] ∧
    trapStep { machine [] [] with mstatus := 0x1000, mepc := 0x80000040, extraflags := 3 } 0x30200073 =
      some [0, 0x80000040, 0, 0x80, 2, 0x80000040] ∧
    trapStep (machine [] []) 0x10500073 = some [0, 0, 0, 0, 4, 0x80000004] := by decide

/-- The machine about to take the timer interrupt: time 99, timecmp 100, both enables, waiting. -/
def ticking : State :=
  { machine [] [] with timel := 99, timecmpl := 100, mie := 0x80, mstatus := 8, extraflags := 6, elapsedIn := [1], pc := 0x80000010 }

/-- 60_exceptions.md R500 to R504: the interrupt at time = timecmp, with mepc = P. -/
theorem test_interrupt : ((nextOf (step ticking)).map fun t =>
    [t.mcause, t.mepc, t.mtval, t.mstatus, t.extraflags, t.pc, t.timel, t.cyclel, t.mip]) =
    some [0x80000007, 0x80000010, 0, 0x1080, 3, 0x80000200, 100, 1, 0x80] := by decide

/-- R501: one microsecond less, and the step is idle. -/
theorem test_idle : ((nextOf (step { ticking with elapsedIn := [0] })).map fun t => [t.extraflags, t.pc, t.timel, t.cyclel, t.mip]) =
    some [6, 0x80000010, 99, 0, 0] := by decide

/-- R502: the carry into timeh; R511: the carry into cycleh. -/
theorem test_carries : ((nextOf (step (({ machine [] [] with
      timel := 0xFFFFFFFF, elapsedIn := [1], cyclel := 0xFFFFFFFF } : State).withFetchWord 32 0x13))).map fun t =>
    [t.timel, t.timeh, t.cyclel, t.cycleh]) = some [0, 1, 0, 1] := by decide

/-- R600 and R601: reset, and the first fetch of empty RAM. -/
theorem test_reset : State.reset.pc = 0x80000000 ∧ State.reset.reg 2 = 0x80010000 ∧ State.reset.reg 0 = 0 ∧
    State.reset.extraflags = 0 ∧ faultOf (step State.reset) = some (.unmatched 0) := by decide

/-- R11: a configuration with RAM past 2^32 or with the UART inside RAM is refused at construction, the default one is not. -/
theorem test_construct :
    (nextOf (hostConstruct defaultConfig defaultRegs [])).isSome = true ∧
    nextOf (hostConstruct { defaultConfig with dramSize := 0x80000001 } defaultRegs []) = none ∧
    nextOf (hostConstruct { defaultConfig with uartBase := 0x80000000 } defaultRegs []) = none := by decide

/-! ### Witnesses: states and operands that meet the hypotheses of the statements -/

theorem witness_EncodedInstructionDecodes : (Instr.beq 1 2 (-4096)).wellFormed = true ∧ extOf (.beq 1 2 (-4096)) ∈ [Ext.m, .i] := by decide

theorem witness_DecodedWordIsEncoding : dispatch [.z, .a] 0x30200073 = .ok .mret := by decide

/-- Clause 1: two variants of one extension match one word; clause 2; clause 3. -/
theorem witness_ExtensionOrderIrrelevant :
    ((variantsOf .i).filter (fun v => v.template.matches 0x00109093)).length = 2 ∧
    (∀ e, variantsOf e ≠ [] → (e ∈ [Ext.i, .z, .i] ↔ e ∈ [Ext.z, .unknown 'c', .i])) ∧
    ((variantsOf .m).any (fun v => v.template.matches 0x022081B3) = true ∧ Ext.m ∉ [Ext.i, .a]) := by
  refine ⟨by decide, fun e h => ?_, by decide⟩
  cases e with
  | unknown c => exact absurd rfl h
  | i => decide
  | m => decide
  | a => decide
  | z => decide

theorem witness_TemplateMatchesIffLiteralsAgree : (byFunct3 0b000 0b1100111).length = 32 ∧
    (Template.ofPattern (byFunct3 0b000 0b1100111)).matches 0x003280E7 = true ∧
    (Template.ofPattern (byFunct3 0b000 0b1100111)).matches 0x003290E7 = false := by decide

/-- A word for each catch-all variant, at the ends of each list of selectors. -/
theorem witness_IllegalSelector_branch : IllegalSelector 0x0020A863#32 ∧ IllegalSelector 0x0020B863#32 := by unfold IllegalSelector; decide
theorem witness_IllegalSelector_load : IllegalSelector 0x00003003#32 ∧ IllegalSelector 0x00007003#32 := by unfold IllegalSelector; decide
theorem witness_IllegalSelector_store : IllegalSelector 0x00003023#32 ∧ IllegalSelector 0x00007023#32 := by unfold IllegalSelector; decide
theorem witness_IllegalSelector_shift : IllegalSelector 0x02001013#32 ∧ IllegalSelector 0xFE00D193#32 := by unfold IllegalSelector; decide
theorem witness_IllegalSelector_op : IllegalSelector 0x400011B3#32 ∧ IllegalSelector 0x400071B3#32 := by unfold IllegalSelector; decide

theorem witness_IllegalSubOpcodeTraps : Ext.i ∈ State.reset.cfg.extensions ∧ IllegalSelector 0x0020A863#32 :=
  ⟨by decide, witness_IllegalSelector_branch.1⟩

/-- A word for each line of R160's class 3. -/
theorem witness_UnmatchedListed_opcode : UnmatchedListed 0#32 ∧ UnmatchedListed 0xFFFFFFFF#32 := by unfold UnmatchedListed; decide
theorem witness_UnmatchedListed_op : UnmatchedListed 0x040000B3#32 ∧ UnmatchedListed 0xC0000033#32 := by unfold UnmatchedListed; decide
theorem witness_UnmatchedListed_funct3 : UnmatchedListed 0x00001067#32 ∧ UnmatchedListed 0x0000100F#32 := by unfold UnmatchedListed; decide
theorem witness_UnmatchedListed_amo : UnmatchedListed 0x2820A1AF#32 ∧ UnmatchedListed 0x1020A1AF#32 := by unfold UnmatchedListed; decide
theorem witness_UnmatchedListed_system : UnmatchedListed 0x000000F3#32 ∧ UnmatchedListed 0x340041F3#32 := by unfold UnmatchedListed; decide

theorem witness_ShiftImmediateResults : Ext.i ∈ State.reset.cfg.extensions ∧ opcodeOf 0x02009193#32 = 0b0010011#7 ∧
    funct3Of 0x02009193#32 = 1 ∧ funct7Of 0x02009193#32 ≠ 0 ∧ opcodeOf 0x4200D193#32 = 0b0010011#7 ∧ funct3Of 0x4200D193#32 = 5 ∧
    funct7Of 0x4200D193#32 ≠ 0 ∧ funct7Of 0x4200D193#32 ≠ 0b0100000#7 := by decide

theorem witness_JumpResults : (0x1FFFFE#21).getLsbD 0 = false ∧ opcodeOf 0x00001067#32 = 0b1100111#7 ∧ funct3Of 0x00001067#32 ≠ 0 := by decide

/-- An even offset; a state in which each condition holds, and one in which it does not (equal and unequal, across the sign). -/
theorem witness_BranchResults : (0x1000#13).getLsbD 0 = false ∧
    (machine [(1, 0x80000000)] []).reg 1 ≠ (machine [(1, 0x80000000)] []).reg 3 ∧
    ((machine [(1, 0x80000000)] []).reg 1).toInt < ((machine [(1, 0x80000000)] []).reg 3).toInt ∧
    ¬ ((machine [(1, 0x80000000)] []).reg 1).toNat < ((machine [(1, 0x80000000)] []).reg 3).toNat ∧
    (machine [] []).reg 1 = (machine [] []).reg 3 ∧ ¬ ((machine [] []).reg 1).toInt < ((machine [] []).reg 3).toInt ∧
    ¬ ((machine [(3, 0x80000000)] []).reg 1).toInt < ((machine [(3, 0x80000000)] []).reg 3).toInt ∧
    ((machine [(3, 0x80000000)] []).reg 1).toNat < ((machine [(3, 0x80000000)] []).reg 3).toNat := by decide

/-- The first byte and the last word of RAM, the ends of the UART window. -/
theorem witness_mapped :
    InRam defaultConfig 0x80000000 1 ∧ InRam defaultConfig 0x8000FFFC 4 ∧ InRam defaultConfig 0x8000FFFF 1 ∧
    InUart defaultConfig 0x10000000 4 ∧ InUart defaultConfig 0x100000FC 4 := by decide

/-- One past each end, and an access that crosses each end. -/
theorem witness_unmapped :
    Unmapped defaultConfig 0x10000100 ∧ Unmapped defaultConfig 0x80010000 ∧ Unmapped defaultConfig 0x7FFFFFFF ∧
    (¬ Unmapped defaultConfig 0x8000FFFD ∧ ¬ Mapped defaultConfig 0x8000FFFD 4) ∧
    (¬ Unmapped defaultConfig 0x100000FD ∧ ¬ Mapped defaultConfig 0x100000FD 4) := by decide

theorem witness_BusAccesses : 8 ∈ [1, 2, 4, 8] ∧ Mapped State.reset.cfg 0x8000FFF8 8 ∧ Mapped State.reset.cfg 0x100000F8 8 ∧
    AccessFails State.reset.cfg 0x20000000 1 (.noPeripheral 0x20000000) ∧
    AccessFails State.reset.cfg 0x8000FFF9 8 (.outOfRange 0x8000FFF9) :=
  ⟨by decide, by decide, by decide, .inl ⟨by decide, rfl⟩, .inr ⟨by decide, by decide, rfl⟩⟩

theorem witness_FetchIsBusRead : Mapped State.reset.cfg State.reset.pc 4 ∧
    Mapped ({ State.reset with pc := 0x10000000 } : State).cfg 0x10000000 4 ∧
    AccessFails ({ State.reset with pc := 0 } : State).cfg 0 4 (.noPeripheral 0) ∧
    AccessFails ({ State.reset with pc := 0x8000FFFD } : State).cfg 0x8000FFFD 4 (.outOfRange 0x8000FFFD) :=
  ⟨by decide, by decide, .inl ⟨by decide, rfl⟩, .inr ⟨by decide, by decide, rfl⟩⟩

/-- The effective address that the load and store statements compute, in RAM (last byte, last halfword, last word), in the UART window, and
failing. -/
theorem witness_LoadResults_StoreResults :
    (let s := machine [(1, 0x8000FFFD)] []
     Mapped s.cfg (s.reg 1 + (2#12).signExtend 32) 1 ∧ Mapped s.cfg (s.reg 1 + (1#12).signExtend 32) 2 ∧
     Mapped s.cfg (s.reg 1 + (0xFFF#12).signExtend 32) 4 ∧
     AccessFails s.cfg (s.reg 1 + (2#12).signExtend 32) 2 (.outOfRange 0x8000FFFF) ∧
     AccessFails s.cfg (s.reg 1 + (3#12).signExtend 32) 1 (.noPeripheral 0x80010000)) ∧
    (let s := machine [(1, 0x10000000)] []
     Mapped s.cfg (s.reg 1 + (0#12).signExtend 32) 4 ∧ Mapped s.cfg (s.reg 1 + (5#12).signExtend 32) 1 ∧
     Mapped s.cfg (s.reg 1 + (0xFE#12).signExtend 32) 2 ∧
     AccessFails s.cfg (s.reg 1 + (0xFFF#12).signExtend 32) 4 (.noPeripheral 0x0FFFFFFF)) :=
  ⟨⟨by decide, by decide, by decide, .inr ⟨by decide, by decide, rfl⟩, .inl ⟨by decide, rfl⟩⟩,
   ⟨by decide, by decide, by decide, .inl ⟨by decide, rfl⟩⟩⟩

theorem witness_StoredWordReadsBackByBytes : InRam State.reset.cfg 0x8000FFFC 4 ∧ State.reset.cfg.Valid := by decide

theorem witness_LoadAfterStoreReturnsValue :
    InRam (machine [(1, 0x80000101)] []).cfg ((machine [(1, 0x80000101)] []).reg 1 + (0x7FF#12).signExtend 32) 4 ∧
    ∃ t, exec (.sw 2 1 0x7FF) (machine [(1, 0x80000101)] []) = .next t := ⟨by decide, next_of (by decide)⟩

theorem witness_FetchSeesStoredWord : InRam State.reset.cfg State.reset.pc 4 := by decide

theorem witness_MemoryFaultsExactly : ∃ f, exec (.lw 3 1 0) (machine [(1, 0x8000FFFE)] []) = .fault f := ⟨.outOfRange 0x8000FFFE, rfl⟩

theorem witness_FenceChangesOnlyPc : opcodeOf 0x0000100F#32 = 0b0001111#7 ∧ funct3Of 0x0000100F#32 ≠ 0 := by decide

theorem witness_TrapEntryEffects : 3#32 ∈ [3#32, 4#32, 9#32, 10#32, 11#32, 12#32] ∧ 12#32 ∈ [3#32, 4#32, 9#32, 10#32, 11#32, 12#32] := by decide

/-- A handler that has changed a register, memory and mscratch, and stands elsewhere, after an ECALL and after an interrupt. -/
theorem witness_TrapThenMretResumes :
    (∃ t, exec .ecall ticking = .next t) ∧
    (∀ t : State, (({ t with mem := [(0x80000100, 1)], pc := 0x80000240, mscratch := 7 } : State).setReg 5 9).mepc = t.mepc ∧
      (({ t with mem := [(0x80000100, 1)], pc := 0x80000240, mscratch := 7 } : State).setReg 5 9).mstatus = t.mstatus) :=
  ⟨next_of (by decide), fun _ => ⟨rfl, rfl⟩⟩

/-- A dividend and a divisor that meet the conditions of every clause, and results of all seven instructions. -/
theorem witness_MultiplyDivideLaws :
    (let s := machine [(1, 0xFFFFFFF9), (2, 2)] []
     s.reg 2 ≠ 0 ∧ ¬ (s.reg 1 = 0x80000000#32 ∧ s.reg 2 = 0xFFFFFFFF#32) ∧ (3 : RegNum) ≠ 0) ∧
    ∃ q r uq ur lo hi uhi, exec (.div 3 1 2) (machine [(1, 0xFFFFFFF9), (2, 2)] []) = .next q ∧
      exec (.rem 3 1 2) (machine [(1, 0xFFFFFFF9), (2, 2)] []) = .next r ∧
      exec (.divu 3 1 2) (machine [(1, 0xFFFFFFF9), (2, 2)] []) = .next uq ∧
      exec (.remu 3 1 2) (machine [(1, 0xFFFFFFF9), (2, 2)] []) = .next ur ∧
      exec (.mul 3 1 2) (machine [(1, 0xFFFFFFF9), (2, 2)] []) = .next lo ∧
      exec (.mulh 3 1 2) (machine [(1, 0xFFFFFFF9), (2, 2)] []) = .next hi ∧
      exec (.mulhu 3 1 2) (machine [(1, 0xFFFFFFF9), (2, 2)] []) = .next uhi :=
  ⟨by decide, _, _, _, _, _, _, _, rfl, rfl, rfl, rfl, rfl, rfl, rfl⟩

/-- LR.W, SC.W and the AMOs: the address in RAM, in the UART window, unmapped, and past the end; a word with rs2 not 0. -/
theorem witness_atomics :
    Mapped (machine [(1, 0x8000FFFC)] []).cfg ((machine [(1, 0x8000FFFC)] []).reg 1) 4 ∧
    Mapped (machine [(1, 0x10000000)] []).cfg ((machine [(1, 0x10000000)] []).reg 1) 4 ∧
    AccessFails (machine [(1, 0x20000000)] []).cfg ((machine [(1, 0x20000000)] []).reg 1) 4 (.noPeripheral 0x20000000) ∧
    AccessFails (machine [(1, 0x8000FFFF)] []).cfg ((machine [(1, 0x8000FFFF)] []).reg 1) 4 (.outOfRange 0x8000FFFF) ∧
    (opcodeOf 0x1020A1AF#32 = 0b0101111#7 ∧ bits 0x1020A1AF#32 27 5 = 0b00010#5 ∧ rs2Of 0x1020A1AF#32 ≠ 0) :=
  ⟨by decide, by decide, .inl ⟨by decide, rfl⟩, .inr ⟨by decide, by decide, rfl⟩, by decide⟩

/-- A matching reservation in RAM, in the UART window and at an unmapped address; one that differs in one bit. -/
theorem witness_StoreConditionalResults :
    (let s : State := { machine [(1, 0x80000100)] [] with extraflags := 0x803 }
     s.extraflags >>> 3 = s.reg 1 &&& 0x1FFFFFFF#32 ∧ Mapped s.cfg (s.reg 1) 4) ∧
    (let s : State := { machine [(1, 0x10000000)] [] with extraflags := 0x80000000 }
     s.extraflags >>> 3 = s.reg 1 &&& 0x1FFFFFFF#32 ∧ Mapped s.cfg (s.reg 1) 4) ∧
    (let s : State := machine [(1, 0x20000000)] []
     s.extraflags >>> 3 = s.reg 1 &&& 0x1FFFFFFF#32 ∧ AccessFails s.cfg (s.reg 1) 4 (.noPeripheral 0x20000000)) ∧
    (let s : State := { machine [(1, 0x80000101)] [] with extraflags := 0x803 }
     s.extraflags >>> 3 ≠ s.reg 1 &&& 0x1FFFFFFF#32) :=
  ⟨by decide, by decide, ⟨by decide, .inl ⟨by decide, rfl⟩⟩, by decide⟩

theorem witness_AmoResults : ∃ op, (0b11100#5, .amomaxuw 3 1 2 true false, op) ∈ amoTable 3 1 2 true false :=
  ⟨_, List.mem_of_getElem? (i := 8) rfl⟩

theorem witness_AcquireReleaseIgnored :
    (opcodeOf 0x0620A1AF#32 = 0b0101111#7 ∧
      ∀ k, k < 32 → k ≠ 25 → k ≠ 26 → (0x0020A1AF#32).getLsbD k = (0x0620A1AF#32).getLsbD k) ∧
    (opcodeOf 0x0020B1AF#32 = 0b0101111#7 ∧ funct3Of 0x0020B1AF#32 ≠ 2) ∧
    (opcodeOf 0x2820A1AF#32 = 0b0101111#7 ∧ bits 0x2820A1AF#32 27 5 = 0b00101#5) := by decide

theorem witness_ReservationWrittenOnlyByLrSc :
    (∀ rd rs1 aq rl, Instr.sw 2 1 0 ≠ .lrw rd rs1 aq rl) ∧ (∀ rd rs1 rs2 aq rl, Instr.sw 2 1 0 ≠ .scw rd rs1 rs2 aq rl) ∧
    (∃ t, exec (.sw 2 1 0) { machine [(1, 0x80000100)] [] with extraflags := 0x800 } = .next t) ∧
    ∃ t, illegalInstruction ticking = .next t :=
  ⟨by intros; exact Instr.noConfusion, by intros; exact Instr.noConfusion, next_of (by decide), next_of (by decide)⟩

/-- Each kind of access: a writable CSR, a read-only one that is only read, an unknown number, a write attempt to a read-only one. -/
theorem witness_CsrAccessResults :
    (∃ new, (0b001#3, .csrrw 3 0x340 1, true, new) ∈ csrTable 3 0x340 1 State.reset) ∧
    State.reset.cfg.csrMap.lookup 0x340 = some .mscratch ∧ csrReadOnly .mscratch = false ∧
    (∃ new, (0b110#3, .csrrsi 3 0xF14 0, false, new) ∈ csrTable 3 0xF14 0 State.reset) ∧
    State.reset.cfg.csrMap.lookup 0xF14 = some .mhartid ∧
    State.reset.cfg.csrMap.lookup 0x301 = none ∧
    (∃ new, (0b111#3, .csrrci 3 0xC00 31, true, new) ∈ csrTable 3 0xC00 31 State.reset) ∧
    State.reset.cfg.csrMap.lookup 0xC00 = some .cyclel ∧ csrReadOnly .cyclel = true :=
  ⟨⟨_, List.mem_of_getElem? (i := 0) rfl⟩, by decide, rfl, ⟨_, List.mem_of_getElem? (i := 4) rfl⟩, by decide, by decide,
   ⟨_, List.mem_of_getElem? (i := 5) rfl⟩, by decide, rfl⟩

/-- A waiting state whose wait goes on, and one whose wait ends exactly at time = timecmp. -/
theorem witness_WfiSetsWaiting : ticking.waiting = true ∧ ticking.cfg.timerCmp = .unsigned64 ∧ (beginStep ticking).waiting = false ∧
    ({ ticking with elapsedIn := [] } : State).waiting = true ∧ (beginStep { ticking with elapsedIn := [] }).waiting = true := by decide

theorem witness_OtherSystemWordsUnmatched : opcodeOf 0x10200073#32 = 0b1110011#7 ∧ funct3Of 0x10200073#32 = 0 ∧
    0x10200073#32 ∉ [0x00000073#32, 0x00100073#32, 0x30200073#32, 0x10500073#32] := by decide

/-- A state about to run a word of RAM. -/
def running (w : Nat) : State := (machine [(1, 0x80000101)] []).withFetchWord 32 w

/-- An instruction that completes, and one that faults. -/
theorem witness_StepRunsDecodedInstruction :
    (let b := beginStep (running 0x0000A183)
     b.waiting = false ∧ interruptTaken b = false ∧ InRam b.cfg b.pc 4 ∧
     decode b.cfg.extensions [b.byteAt b.pc.toNat, b.byteAt (b.pc.toNat + 1), b.byteAt (b.pc.toNat + 2), b.byteAt (b.pc.toNat + 3)] =
       .ok (.lw 3 1 0)) ∧
    (∃ t, exec (.lw 3 1 0) (beginStep (running 0x0000A183)).clearX0 = .next t) ∧
    (let b := beginStep (running 0x00002183)
     b.waiting = false ∧ interruptTaken b = false ∧ InRam b.cfg b.pc 4 ∧
     decode b.cfg.extensions [b.byteAt b.pc.toNat, b.byteAt (b.pc.toNat + 1), b.byteAt (b.pc.toNat + 2), b.byteAt (b.pc.toNat + 3)] =
       .ok (.lw 3 0 0)) ∧
    faultOf (exec (.lw 3 0 0) (beginStep (running 0x00002183)).clearX0) = some (.noPeripheral 0) :=
  ⟨by decide, next_of (by decide), by decide, by decide⟩

theorem witness_UnmatchedWordIsFatal :
    (let b := beginStep (running 0)
     b.waiting = false ∧ interruptTaken b = false ∧ InRam b.cfg b.pc 4 ∧
     dispatch b.cfg.extensions (b.wordAt b.pc.toNat) = .error .unmatched) := by decide

theorem witness_FetchOutsideMapIsFatal :
    (beginStep { State.reset with pc := 0x8000FFFD }).waiting = false ∧
    interruptTaken (beginStep { State.reset with pc := 0x8000FFFD }) = false ∧
    AccessFails State.reset.cfg 0x8000FFFD 4 (.outOfRange 0x8000FFFD) ∧ AccessFails State.reset.cfg 0 4 (.noPeripheral 0) :=
  ⟨by decide, by decide, .inr ⟨by decide, by decide, rfl⟩, .inl ⟨by decide, rfl⟩⟩

/-- Steps of each kind that answer a next state: idle, interrupt, instruction, trap (for CycleCountsSteps, ConfigurationNeverChanges,
StepKeepsInv and X0IsZeroAfterEveryStep). -/
theorem witness_steps : (∃ t, step { ticking with elapsedIn := [] } = .next t) ∧ (∃ t, step ticking = .next t) ∧
    (∃ t, step (running 0x0000A183) = .next t) ∧ ∃ t, step (running 0x00000073) = .next t :=
  ⟨next_of (by decide), next_of (by decide), next_of (by decide), next_of (by decide)⟩

theorem witness_TimeAdvancesByElapsed : ∃ t, step { ticking with timel := 0xFFFFFFFF } = .next t := next_of (by decide)

/-- The condition at time = timecmp, one below it, and with timecmp = 0. -/
theorem witness_TimerPendingRecomputed : ticking.cfg.timerCmp = .unsigned64 ∧
    (ticking.timecmp ≠ 0 ∧ (ticking.time + ticking.elapsed.zeroExtend 64).toNat ≥ ticking.timecmp.toNat) ∧
    (let s : State := { ticking with elapsedIn := [0] }
     s.cfg.timerCmp = .unsigned64 ∧ ¬ (s.time + s.elapsed.zeroExtend 64).toNat ≥ s.timecmp.toNat) ∧
    (let s : State := { ticking with timecmpl := 0 }
     s.cfg.timerCmp = .unsigned64 ∧ s.timecmp = 0) := by decide

theorem witness_TimerComparisonsRelated : timerReached .componentwise 0x200000001#64 0x100000001#64 = true := by decide

theorem witness_TimerInterruptTaken : (beginStep ticking).timerPending = true ∧ ticking.mie.getLsbD 7 = true ∧
    ticking.mstatus.getLsbD 3 = true ∧ interruptTaken (beginStep State.reset) = false := by decide

theorem witness_IdleStepChangesOnlyTimer : ({ ticking with elapsedIn := [0] } : State).trap = 0 ∧
    (beginStep { ticking with elapsedIn := [0] }).waiting = true := by decide

theorem witness_WfiWithTimerOffWaitsForever : ({ ticking with timecmpl := 0 } : State).waiting = true ∧
    ({ ticking with timecmpl := 0 } : State).timecmp = 0 := by decide

theorem witness_X0IsZeroAfterEveryStep : (running 0x00508013).regs[0] = 0 ∧ ∃ t, step (running 0x00508013) = .next t :=
  ⟨by decide, next_of (by decide)⟩

/-- For InstructionsKeepCounters and PrivilegeChangesOnlyByTrapOrMret: an instruction of each kind. -/
theorem witness_exec : (∃ t, exec .mret ticking = .next t) ∧ (∃ t, exec .wfi ticking = .next t) ∧ (∃ t, exec .ebreak ticking = .next t) ∧
    ∃ t, exec (.csrrw 0 0x344 1) ticking = .next t :=
  ⟨next_of (by decide), next_of (by decide), next_of (by decide), next_of (by decide)⟩

theorem witness_StepKeepsInv : (running 0x0020A023).Inv ∧ ∃ t, step (running 0x0020A023) = .next t := ⟨by decide, next_of (by decide)⟩

/-- A canonical RAM that touches both ends of the DRAM range. -/
theorem witness_ResetHasInv :
    (let m : Memory := [(0x80000000, 0x13), (0x8000FFFF, 1)]
     m.wf ∧ ∀ cell ∈ m, defaultConfig.dramBase.toNat ≤ cell.1 ∧ cell.1 < defaultConfig.dramBase.toNat + defaultConfig.dramSize) := by
  decide

/-- An image that just fits, and one that is a byte too long, in a configuration with three bytes of RAM right below the UART window. -/
theorem witness_LoaderPlacesImage :
    (let s : State := State.resetFrom { defaultConfig with dramSize := 3, uartBase := 0x80000003 } defaultRegs []
     s.cfg.Valid ∧ [1#8, 0#8, 3#8].length ≤ s.cfg.dramSize ∧ s.cfg.dramSize < [1#8, 2#8, 3#8, 4#8].length) := by decide

/-- Log entry 13: a UART window of 0 bytes inside RAM is admitted, and a window of 1 byte there is not (R11). -/
theorem test_valid_empty_window :
    ({ defaultConfig with uartBase := 0x80000001, uartSize := 0 } : Config).Valid ∧
    ¬ ({ defaultConfig with uartBase := 0x80000001, uartSize := 1 } : Config).Valid := by decide

/-- R611: that byte too long is fatal although the UART window starts where it would go, and so is one where the address wraps to it. -/
theorem test_load_too_long :
    faultOf (hostLoad [1, 2, 3, 4] (State.resetFrom { defaultConfig with dramSize := 3, uartBase := 0x80000003 } defaultRegs [])) =
      some (.noPeripheral 0x80000003) ∧
    faultOf (hostLoad [1, 2] (State.resetFrom { defaultConfig with dramBase := 0xFFFFFFFF, dramSize := 1, uartBase := 0 } defaultRegs [])) =
      some (.noPeripheral 0) := by decide

/-- Which end a run has, and the pc of its final state. -/
def endOf : RunEnd → Nat × Option Word
  | .fatal _ => (1, none)
  | .left s => (2, some s.pc)
  | .stopped s => (3, some s.pc)
  | .refused _ => (4, none)

/-- The three ends of R635 after one step that completes (ADDI, JAL out of RAM, JAL to itself), and log entry 17: a condition that fails at
once, and a bound used up where the condition fails. -/
theorem witness_RunEndsInThreeWays :
    endOf (hostRun continueInDram 2 (running 0x00400013)) = (1, none) ∧
    endOf (hostRun continueInDram 2 (running 0xFFDFF06F)) = (2, some 0x7FFFFFFC) ∧
    endOf (hostRun continueInDram 2 (running 0x0000006F)) = (3, some 0x80000000) ∧
    endOf (hostRun (fun _ => false) 2 (running 0x0000006F)) = (2, some 0x80000000) ∧
    endOf (hostRun continueInDram 1 (running 0xFFDFF06F)) = (3, some 0x7FFFFFFC) := by decide

end Sys2Proof.Tests
end

/-! PROOFS. No outcome of the model is a refusal (spec/00_scope.md R26): one lemma per shared operation that reaches the bus or the CSR
bank, then the instructions, the dispatcher and the step. -/

namespace Sys2Proof.Machine

section NoRefusal

variable {res : Result} {t : State} (s : State) (r : Refusal)

theorem ne_refused_of_next (h : res = .next t) : res ≠ .refused r := by
  rw [h]
  nofun

theorem illegalInstruction_ne_refused : illegalInstruction s ≠ .refused r := ne_refused_of_next r rfl

/-! ### Operations that can end in a fatal error of the bus -/

theorem load_ne_refused {n : Nat} {ext : Nat → Word} {rd rs1 : RegNum} {imm : BitVec 12} :
    load n ext rd rs1 imm s ≠ .refused r := by
  unfold load
  split
  · nofun
  · exact ne_refused_of_next r rfl

theorem store_ne_refused {n : Nat} {rs2 rs1 : RegNum} {imm : BitVec 12} : store n rs2 rs1 imm s ≠ .refused r := by
  unfold store
  split <;> nofun

theorem execLrw_ne_refused {rd rs1 : RegNum} {aq rl : Bool} : execLrw rd rs1 aq rl s ≠ .refused r := by
  unfold execLrw
  split
  · nofun
  · exact ne_refused_of_next r rfl

theorem execScw_ne_refused {rd rs1 rs2 : RegNum} {aq rl : Bool} : execScw rd rs1 rs2 aq rl s ≠ .refused r := by
  unfold execScw
  split
  · split
    · nofun
    · exact ne_refused_of_next r rfl
  · exact ne_refused_of_next r rfl

theorem amo_ne_refused {op : Word → Word → Word} {rd rs1 rs2 : RegNum} : amo op rd rs1 rs2 s ≠ .refused r := by
  unfold amo
  split
  · nofun
  · dsimp only
    split
    · nofun
    · exact ne_refused_of_next r rfl

/-! ### The CSR instructions -/

/-- Both cases of a CSR access complete: the trap and the access itself. -/
theorem csrOp_ne_refused {k : CsrKind} {rd : RegNum} {num : CsrNum} {field : BitVec 5} {src : Word} :
    csrOp k rd num field src s ≠ .refused r := by
  obtain ⟨htrap, -⟩ | ⟨c, -, -, haccess⟩ := csrOp_cases k rd num field src s
  · rw [htrap]
    exact illegalInstruction_ne_refused s r
  · exact ne_refused_of_next r haccess

/-! ### Every instruction, word and step -/

/-- No arm is left without a meaning. Only a memory access can be fatal and only a CSR access branches between a trap and its effect; every
other arm answers one next state by definition. -/
theorem exec_ne_refused (i : Instr) : exec i s ≠ .refused r := by
  cases i with
  | lui | auipc | addi | slti | sltiu | xori | ori | andi | slli | srli | srai
  | add | sub | sll | slt | sltu | xor | srl | sra | or | and
  | mul | mulh | mulhsu | mulhu | div | divu | rem | remu
  | jal | jalr | beq | bne | blt | bge | bltu | bgeu
  | fence | ecall | ebreak | mret | wfi => exact ne_refused_of_next r rfl
  | lb | lh | lw | lbu | lhu => exact load_ne_refused s r
  | sb | sh | sw => exact store_ne_refused s r
  | lrw =>
    dsimp only [exec]
    exact execLrw_ne_refused s r
  | scw =>
    dsimp only [exec]
    exact execScw_ne_refused s r
  | amoswapw | amoaddw | amoxorw | amoandw | amoorw | amominw | amomaxw | amominuw | amomaxuw =>
    dsimp only [exec, execAmoswapw, execAmoaddw, execAmoxorw, execAmoandw, execAmoorw, execAmominw, execAmomaxw, execAmominuw,
      execAmomaxuw]
    exact amo_ne_refused s r
  | csrrw | csrrs | csrrc | csrrwi | csrrsi | csrrci => exact csrOp_ne_refused s r

/-- R150 to R154: a word runs its instruction, traps as an illegal sub-opcode, or is fatal. -/
theorem runWord_ne_refused (w : Word) : runWord w s ≠ .refused r := by
  unfold runWord
  split
  · exact exec_ne_refused s r _
  · exact illegalInstruction_ne_refused s r
  · nofun
  · nofun

theorem finish_ne_refused (h : res ≠ .refused r) : finish res ≠ .refused r := by
  cases res with
  | next | fault => nofun
  | refused => exact h

/-- The four ends of a step: idle, interrupted, a fatal fetch, or the word that was fetched. -/
theorem step_ne_refused : step s ≠ .refused r := by
  unfold step runStep runPhase
  split
  · nofun
  · split
    · nofun
    · split
      · nofun
      · exact finish_ne_refused r (runWord_ne_refused _ r _)

end NoRefusal

/-- Settles O55: a step refuses only where the word it runs does, and every arm of `exec` has a meaning. -/
theorem noStepIsRefused : Obligations.NoStepIsRefused := step_ne_refused

end Sys2Proof.Machine

/-! PROOFS. What no instruction writes: the configuration, the counters and the host's ELAPSED (spec/00_scope.md R14, spec/10_state.md R46,
R47, R49, R62). One lemma per shared operation, then the instructions, the dispatcher and the step. -/

namespace Sys2Proof.Machine

/-- The part of the state that every instruction leaves alone: configuration, time, cycle and the host's ELAPSED inputs. -/
def State.fixedPart (s : State) : Config × BitVec 64 × BitVec 64 × List Word × Word :=
  (s.cfg, s.time, s.cycle, s.elapsedIn, s.elapsedRest)

section FixedPart

variable (s : State)

/-! ### Updates of the state -/

@[simp] theorem State.setReg_fixedPart (r : RegNum) (v : Word) : (s.setReg r v).fixedPart = s.fixedPart := by
  unfold State.setReg
  split <;> rfl

@[simp] theorem State.setCsr_fixedPart (c : Csr) (v : Word) : (s.setCsr c v).fixedPart = s.fixedPart := by cases c <;> rfl

@[simp] theorem State.setPc_fixedPart (p : Word) : (s.setPc p).fixedPart = s.fixedPart := rfl
@[simp] theorem State.setTrap_fixedPart (x : Word) : (s.setTrap x).fixedPart = s.fixedPart := rfl
@[simp] theorem State.setWaiting_fixedPart (b : Bool) : (s.setWaiting b).fixedPart = s.fixedPart := rfl
@[simp] theorem State.setResv_fixedPart (x : BitVec 29) : (s.setResv x).fixedPart = s.fixedPart := rfl
@[simp] theorem advance_fixedPart : (advance s).fixedPart = s.fixedPart := rfl
@[simp] theorem returnFromTrap_fixedPart : (returnFromTrap s).fixedPart = s.fixedPart := rfl

@[simp] theorem trapEntry_fixedPart : (trapEntry s).fixedPart = s.fixedPart := by
  unfold trapEntry
  split <;> rfl

@[simp] theorem enterInterrupt_fixedPart : (enterInterrupt s).fixedPart = s.fixedPart := by simp [enterInterrupt]

end FixedPart

section InstructionsKeepFixedPart

variable {s s' t : State}

/-! ### Operations that answer a next state -/

theorem busRead_fixedPart {a : Word} {n v : Nat} (h : busRead s a n = .ok (v, s')) : s'.fixedPart = s.fixedPart := by
  rw [busRead_frame h]
  rfl

theorem busWrite_fixedPart {a : Word} {n v : Nat} (h : busWrite s a n v = .ok s') : s'.fixedPart = s.fixedPart := by
  rw [busWrite_frame h]
  rfl

theorem fetch_fixedPart {w : Word} (h : fetch s = .ok (w, s')) : s'.fixedPart = s.fixedPart := by
  obtain ⟨v, hread, -⟩ := fetch_ok h
  exact busRead_fixedPart hread

theorem retire_fixedPart {rd : RegNum} {v : Word} (h : retire rd v s = .next t) : t.fixedPart = s.fixedPart := by
  cases h
  simp

theorem branch_fixedPart {taken : Bool} {off : BitVec 13} (h : branch taken off s = .next t) : t.fixedPart = s.fixedPart := by
  rw [branch_effect] at h
  cases h
  rfl

theorem raiseTrap_fixedPart {code : Word} (h : raiseTrap code s = .next t) : t.fixedPart = s.fixedPart := by
  cases h
  simp

theorem load_fixedPart {n : Nat} {ext : Nat → Word} {rd rs1 : RegNum} {imm : BitVec 12} (h : load n ext rd rs1 imm s = .next t) :
    t.fixedPart = s.fixedPart := by
  obtain ⟨v, s', hread, rfl⟩ := load_next h
  simpa using busRead_fixedPart hread

theorem store_fixedPart {n : Nat} {rs2 rs1 : RegNum} {imm : BitVec 12} (h : store n rs2 rs1 imm s = .next t) :
    t.fixedPart = s.fixedPart := by
  obtain ⟨s', hwrite, rfl⟩ := store_next h
  simpa using busWrite_fixedPart hwrite

theorem amo_fixedPart {op : Word → Word → Word} {rd rs1 rs2 : RegNum} (h : amo op rd rs1 rs2 s = .next t) :
    t.fixedPart = s.fixedPart := by
  obtain ⟨v, s', s'', hread, hwrite, rfl⟩ := amo_next h
  simpa using (busWrite_fixedPart hwrite).trans (busRead_fixedPart hread)

/-- An LR.W that completes: the bus read succeeded and its address is reserved (spec/46_a_extension.md R350). -/
theorem execLrw_next {rd rs1 : RegNum} {aq rl : Bool} (h : execLrw rd rs1 aq rl s = .next t) :
    ∃ v s', busRead s (s.reg rs1) 4 = .ok (v, s') ∧
      t = advance ((s'.setResv (reservationOf (s.reg rs1))).setReg rd (BitVec.ofNat 32 v)) := by
  unfold execLrw at h
  split at h
  · cases h
  · rename_i v s' hread
    cases h
    exact ⟨v, s', hread, rfl⟩

/-- An SC.W that completes: the reservation matches and the bus write succeeded, or it does not match (spec/46_a_extension.md R351). -/
theorem execScw_next {rd rs1 rs2 : RegNum} {aq rl : Bool} (h : execScw rd rs1 rs2 aq rl s = .next t) :
    (s.resv = reservationOf (s.reg rs1) ∧ ∃ s', busWrite s (s.reg rs1) 4 (s.reg rs2).toNat = .ok s' ∧
      t = advance ((s'.setResv 0).setReg rd 0)) ∨
    (s.resv ≠ reservationOf (s.reg rs1) ∧ t = advance ((s.setResv 0).setReg rd 1)) := by
  unfold execScw at h
  split at h
  · rename_i hmatch
    split at h
    · cases h
    · rename_i s' hwrite
      cases h
      exact .inl ⟨hmatch, s', hwrite, rfl⟩
  · rename_i hmatch
    cases h
    exact .inr ⟨hmatch, rfl⟩

theorem execLrw_fixedPart {rd rs1 : RegNum} {aq rl : Bool} (h : execLrw rd rs1 aq rl s = .next t) : t.fixedPart = s.fixedPart := by
  obtain ⟨v, s', hread, rfl⟩ := execLrw_next h
  simpa using busRead_fixedPart hread

theorem execScw_fixedPart {rd rs1 rs2 : RegNum} {aq rl : Bool} (h : execScw rd rs1 rs2 aq rl s = .next t) :
    t.fixedPart = s.fixedPart := by
  obtain ⟨-, s', hwrite, rfl⟩ | ⟨-, rfl⟩ := execScw_next h
  · simpa using busWrite_fixedPart hwrite
  · simp

/-- The counters and the identity constants are read-only CSRs, so neither the trap nor the access reaches them. -/
theorem csrOp_fixedPart {k : CsrKind} {rd : RegNum} {num : CsrNum} {field : BitVec 5} {src : Word}
    (h : csrOp k rd num field src s = .next t) : t.fixedPart = s.fixedPart := by
  obtain ⟨htrap, -⟩ | ⟨c, -, -, haccess⟩ := csrOp_cases k rd num field src s
  · exact raiseTrap_fixedPart (htrap.symm.trans h)
  · rw [retire_fixedPart (haccess.symm.trans h)]
    split
    · exact State.setCsr_fixedPart ..
    · rfl

/-! ### Every instruction and word -/

/-- No instruction writes the configuration, the counters or the host's inputs (R46, R47, R62). -/
theorem exec_fixedPart {i : Instr} (h : exec i s = .next t) : t.fixedPart = s.fixedPart := by
  cases i with
  | lui | auipc | addi | slti | sltiu | xori | ori | andi | slli | srli | srai
  | add | sub | sll | slt | sltu | xor | srl | sra | or | and
  | mul | mulh | mulhsu | mulhu | div | divu | rem | remu => exact retire_fixedPart h
  | jal | jalr | fence | mret | wfi =>
    cases h
    simp
  | beq | bne | blt | bge | bltu | bgeu => exact branch_fixedPart h
  | ecall | ebreak => exact raiseTrap_fixedPart h
  | lb | lh | lw | lbu | lhu => exact load_fixedPart h
  | sb | sh | sw => exact store_fixedPart h
  | lrw =>
    dsimp only [exec] at h
    exact execLrw_fixedPart h
  | scw =>
    dsimp only [exec] at h
    exact execScw_fixedPart h
  | amoswapw | amoaddw | amoxorw | amoandw | amoorw | amominw | amomaxw | amominuw | amomaxuw =>
    dsimp only [exec, execAmoswapw, execAmoaddw, execAmoxorw, execAmoandw, execAmoorw, execAmominw, execAmomaxw, execAmominuw,
      execAmomaxuw] at h
    exact amo_fixedPart h
  | csrrw | csrrs | csrrc | csrrwi | csrrsi | csrrci => exact csrOp_fixedPart h

theorem runWord_fixedPart {w : Word} (h : runWord w s = .next t) : t.fixedPart = s.fixedPart := by
  obtain ⟨i, -, hexec⟩ | ⟨-, htrap⟩ := runWord_next h
  · exact exec_fixedPart hexec
  · exact raiseTrap_fixedPart htrap

end InstructionsKeepFixedPart

/-! ### The configuration and the identity CSRs -/

theorem State.cfg_eq_of_fixedPart_eq {s t : State} (h : t.fixedPart = s.fixedPart) : t.cfg = s.cfg := congrArg Prod.fst h

/-- The first and the last phase of a step write counters only; between them stands a trap entry, or a fetch and its word. -/
theorem step_cfg {s t : State} (h : step s = .next t) : t.cfg = s.cfg := by
  obtain ⟨-, rfl⟩ | ⟨-, -, rfl⟩ | ⟨-, -, w, s', u, hfetch, hrun, rfl⟩ := step_next h
  · exact beginStep_cfg s
  · rw [endStep_cfg, State.cfg_eq_of_fixedPart_eq (enterInterrupt_fixedPart _), beginStep_cfg]
  · rw [endStep_cfg, State.cfg_eq_of_fixedPart_eq (runWord_fixedPart hrun), State.clearX0_cfg,
      State.cfg_eq_of_fixedPart_eq (fetch_fixedPart hfetch), beginStep_cfg]

/-- The identity CSRs are read from the configuration alone (R49). -/
theorem State.csr_identity_congr {s t : State} (h : t.cfg = s.cfg) :
    ∀ c ∈ [Csr.mvendorid, .marchid, .mimpid, .mhartid], t.csr c = s.csr c := by
  simp [State.csr, h]

/-- Settles O52: a step keeps the configuration, and the identity CSRs are its constants, at reset too. -/
theorem configurationNeverChanges : Obligations.ConfigurationNeverChanges :=
  ⟨fun _ _ h => ⟨step_cfg h, State.csr_identity_congr (step_cfg h)⟩, fun _ _ _ => ⟨rfl, rfl, rfl, rfl, rfl⟩⟩

end Sys2Proof.Machine

/-! PROOFS. Register x0 (spec/10_state.md R31, spec/60_exceptions.md R507). -/

namespace Sys2Proof.Machine

@[simp] theorem State.setReg_zero (s : State) (v : Word) : s.setReg 0 v = s := if_pos rfl

@[simp] theorem endStep_regs_zero (s : State) : (endStep s).regs[0] = 0 := Vector.getElem_set_self (by omega)

/-- An idle step writes no register; every other step ends by forcing the storage of x0 to 0 (R500 step 7). -/
theorem step_regs_zero {s t : State} (h0 : s.regs[0] = 0) (h : step s = .next t) : t.regs[0] = 0 := by
  obtain ⟨-, rfl⟩ | ⟨-, -, rfl⟩ | ⟨-, -, _, _, u, -, -, rfl⟩ := step_next h
  · simpa using h0
  · exact endStep_regs_zero _
  · exact endStep_regs_zero u

/-- Settles O51: the accessors drop x0, and a step that is not idle clears its storage. -/
theorem x0IsZeroAfterEveryStep : Obligations.X0IsZeroAfterEveryStep := by
  refine ⟨fun s v r => ⟨State.reg_zero s, ?_⟩, fun s t h0 h => ⟨State.reg_zero t, step_regs_zero h0 h⟩⟩
  rw [State.setReg_zero]

end Sys2Proof.Machine

/-! PROOFS. The bus: its accesses in both devices, the fetch as a bus read, and a stored word read back byte by byte
(spec/20_memory.md R83 to R88, R91 to R93, R111 to R115). -/

namespace Sys2Proof.Machine

section BusAccess

variable {s : State} {a : Word} {n : Nat} {f : Fault}

/-! ### An access that fails -/

theorem busRead_of_access_error (h : access s.cfg a n = .error f) : busRead s a n = .error f := by
  unfold busRead
  rw [h]

theorem busWrite_of_access_error (h : access s.cfg a n = .error f) (v : Nat) : busWrite s a n v = .error f := by
  unfold busWrite
  rw [h]

/-! ### The fetch, by the outcome of its bus read -/

theorem fetch_of_busRead_ok {t : State} {v : Nat} (h : busRead s s.pc 4 = .ok (v, t)) : fetch s = .ok (BitVec.ofNat 32 v, t) := by
  unfold fetch
  rw [h]

theorem fetch_of_busRead_error (h : busRead s s.pc 4 = .error f) : fetch s = .error f := by
  unfold fetch
  rw [h]

end BusAccess

/-- Settles O15: a mapped access answers from its device, and the error of any other access is the bus's own, whatever the width. -/
theorem busAccesses : Obligations.BusAccesses := by
  intro s a n hn
  have hpos : 1 ≤ n := (by decide : ∀ width ∈ [1, 2, 4, 8], 1 ≤ width) n hn
  refine ⟨fun hmapped => ⟨busRead_mapped hmapped, busWrite_mapped hmapped⟩, fun f hfails => ?_⟩
  have haccess : access s.cfg a n = .error f := access_fails hpos hfails
  exact ⟨busRead_of_access_error haccess, busWrite_of_access_error haccess⟩

/-- Settles O16: the fetch hands on what the bus read at pc answers. -/
theorem fetchIsBusRead : Obligations.FetchIsBusRead := by
  refine fun s => ⟨fun hmapped => ?_, fun f hfails => ?_⟩
  · obtain ⟨t, v, hread, hreads, hframe⟩ := busRead_mapped hmapped
    exact ⟨t, v, fetch_of_busRead_ok hread, hreads, hframe⟩
  · exact fetch_of_busRead_error (busRead_of_access_error (access_fails (by omega) hfails))

/-! ### The bytes of a stored value -/

/-- In a valid configuration RAM neither wraps around the address space nor meets the UART window (R11), so each byte of an access that
lies in RAM is itself an access that lies in RAM, at the address that follows without wrap-around. -/
theorem inRam_byte {c : Config} {a : Word} {n k : Nat} (h : InRam c a n) (hvalid : c.Valid) (hk : k < n) :
    (a + BitVec.ofNat 32 k).toNat = a.toNat + k ∧ InRam c (a + BitVec.ofNat 32 k) 1 := by
  obtain ⟨-, hbase, -, hend⟩ := h
  obtain ⟨-, hwrap, hdisjoint⟩ := hvalid
  have haddr : (a + BitVec.ofNat 32 k).toNat = a.toNat + k := by
    rw [BitVec.toNat_add, BitVec.toNat_ofNat]
    omega
  refine ⟨haddr, ?_⟩
  unfold InRam
  rw [haddr]
  omega

/-- Byte `k` of a word, as a write stores it, is the word's bits from 8k on. -/
theorem ofNat_toNat_div_eq_extractLsb' (v : Word) (k : Nat) : BitVec.ofNat 8 (v.toNat / 256 ^ k) = v.extractLsb' (8 * k) 8 := by
  apply BitVec.eq_of_toNat_eq
  simp [Nat.shiftRight_eq_div_pow, Nat.pow_mul]

/-- Settles O19: the write leaves byte `k` of the word at the `k`-th address, which is in RAM and read alone. -/
theorem storedWordReadsBackByBytes : Obligations.StoredWordReadsBackByBytes := by
  refine fun s a v hram hvalid => ⟨_, busWrite_ram hram, fun k hk => ?_⟩
  obtain ⟨haddr, hbyte⟩ := inRam_byte hram hvalid hk
  have hstored : memByte (ramWrite s.mem a.toNat 4 v.toNat) (a.toNat + k) = v.extractLsb' (8 * k) 8 := by
    rw [memByte_ramWrite, if_pos (by omega), Nat.add_sub_cancel_left, ofNat_toNat_div_eq_extractLsb']
  refine (busRead_ram (s := { s with mem := ramWrite s.mem a.toNat 4 v.toNat }) hbyte).trans ?_
  rw [haddr, ramRead_one, hstored]

end Sys2Proof.Machine

/-! PROOFS. Templates, the variants that can match a word, and the catch-all variants (spec/30_encoding.md R145, R146, R153, R154). -/

namespace Sys2Proof

/-! ### The bits of a pattern's template (R145, R146) -/

/-- The word with a 1 at each position of the pattern whose character satisfies `f`; position 0 is the highest. -/
def patternBits (f : PatternBit → Bool) : List PatternBit → Word
  | [] => 0
  | b :: p => (if f b then BitVec.twoPow 32 p.length else 0) ||| patternBits f p

/-- The mask marks the literals. -/
theorem patternMask_eq_patternBits (p : List PatternBit) : patternMask p = patternBits (· ≠ .any) p := by
  induction p with
  | nil => rfl
  | cons b p ih => cases b <;> simp [patternMask, patternBits, ih]

/-- The value marks the literals that are 1. -/
theorem patternValue_eq_patternBits (p : List PatternBit) : patternValue p = patternBits (· = .one) p := by
  induction p with
  | nil => rfl
  | cons b p ih => cases b <;> simp [patternValue, patternBits, ih]

/-- Bit `j` is decided by the `j`-th character from the end. -/
theorem getLsbD_patternBits (f : PatternBit → Bool) (p : List PatternBit) {j : Nat} (hj : j < 32) :
    (patternBits f p).getLsbD j = p.reverse[j]?.any f := by
  induction p with
  | nil => simp [patternBits]
  | cons b p ih =>
    have hhead : (if f b then BitVec.twoPow 32 p.length else 0).getLsbD j = (f b && decide (p.length = j)) := by
      cases f b <;> simp [hj, eq_comm]
    rw [patternBits, BitVec.getLsbD_or, hhead, ih, List.reverse_cons]
    obtain hlt | rfl | hgt := Nat.lt_trichotomy j p.length
    · rw [List.getElem?_append_left (by simpa using hlt)]
      simp [hlt.ne']
    · simp
    · rw [List.getElem?_eq_none (by simpa using hgt.le), List.getElem?_eq_none (by simpa using hgt)]
      simp [hgt.ne]

theorem getLsbD_patternBits_of_length {f : PatternBit → Bool} {p : List PatternBit} (hp : p.length = 32) {k : Nat} (hk : k < 32) :
    (patternBits f p).getLsbD (31 - k) = f p[k] := by
  have hchar : p.reverse[31 - k]? = some p[k] := by
    rw [List.getElem?_reverse (by omega), show p.length - 1 - (31 - k) = k by omega, List.getElem?_eq_getElem]
  rw [getLsbD_patternBits f p (by omega), hchar, Option.any_some]

/-- Settles O4: masked word and value are compared bit by bit, and a bit that is no literal is 0 in both. -/
theorem templateMatchesIffLiteralsAgree : Obligations.TemplateMatchesIffLiteralsAgree := by
  intro p hp w
  have hbit (k : Nat) (hk : k < 32) :
      ((w &&& patternMask p).getLsbD (31 - k) = (patternValue p).getLsbD (31 - k)) ↔
        (p[k] = .one → w.getLsbD (31 - k) = true) ∧ (p[k] = .zero → w.getLsbD (31 - k) = false) := by
    rw [BitVec.getLsbD_and, patternMask_eq_patternBits, patternValue_eq_patternBits, getLsbD_patternBits_of_length hp hk,
      getLsbD_patternBits_of_length hp hk]
    cases p[k] <;> simp
  rw [Template.matches, Template.ofPattern, beq_iff_eq, BitVec.eq_of_getLsbD_eq_iff]
  constructor
  · exact fun h k hk => (hbit k hk).1 (h (31 - k) (by omega))
  · intro h i hi
    have hk := (hbit (31 - i) (by omega)).2 (h (31 - i) (by omega))
    rwa [show 31 - (31 - i) = i by omega] at hk

section Variants

variable {e : Ext} {v : Variant} {w : Word}

/-! ### The variants that can match a word, by its opcode -/

theorem Template.matches_iff {t : Template} : t.matches w = true ↔ w &&& t.mask = t.value := beq_iff_eq

/-- The variants of all extensions (R153) that fix the opcode as `op`. -/
def variantsWithOpcode (op : BitVec 7) : List Variant :=
  (variantsI ++ variantsM ++ variantsA ++ variantsZ).filter fun v => opcodeOf v.template.value = op

/-- Every template of R153 fixes all seven opcode bits. -/
theorem opcodeOf_mask (hv : v ∈ variantsOf e) : opcodeOf v.template.mask = BitVec.allOnes 7 := by
  revert v
  cases e with
  | i | m | a | z => decide
  | unknown => nofun

theorem opcodeOf_of_matches (hv : v ∈ variantsOf e) (hm : v.template.matches w = true) :
    opcodeOf v.template.value = opcodeOf w := by
  obtain ⟨-, -, -, -, -, hop⟩ := (and_eq_iff ..).1 (Template.matches_iff.1 hm)
  rw [← hop, opcodeOf_mask hv, BitVec.and_allOnes]

/-- Only the variants of a word's opcode have to be looked at, whichever extensions are enabled. -/
theorem mem_variantsWithOpcode (hv : v ∈ variantsOf e) (hm : v.template.matches w = true) :
    v ∈ variantsWithOpcode (opcodeOf w) := by
  refine List.mem_filter.2 ⟨?_, by simpa using opcodeOf_of_matches hv hm⟩
  cases e <;> simp_all [variantsOf]

theorem variantsWithOpcode_branch : variantsWithOpcode 0b1100011#7 = [⟨⟨0x0000007F, 0x00000063⟩, readBranch⟩] := rfl

theorem variantsWithOpcode_load : variantsWithOpcode 0b0000011#7 = [⟨⟨0x0000007F, 0x00000003⟩, readLoad⟩] := rfl

theorem variantsWithOpcode_store : variantsWithOpcode 0b0100011#7 = [⟨⟨0x0000007F, 0x00000023⟩, readStore⟩] := rfl

theorem variantsWithOpcode_imm : variantsWithOpcode 0b0010011#7 =
    [⟨⟨0x0000307F, 0x00001013⟩, readShiftImm⟩, ⟨⟨0x0000007F, 0x00000013⟩, readImm⟩] := rfl

theorem variantsWithOpcode_op : variantsWithOpcode 0b0110011#7 = ⟨⟨0xBE00007F, 0x00000033⟩, readOp⟩ :: variantsM := rfl

theorem funct7Of_of_matches_variantsM (hv : v ∈ variantsM) (hm : v.template.matches w = true) : funct7Of w = 0b0000001#7 := by
  obtain ⟨h7, -⟩ := (and_eq_iff ..).1 (Template.matches_iff.1 hm)
  have hfixed : ∀ v ∈ variantsM, funct7Of v.template.mask = BitVec.allOnes 7 ∧ funct7Of v.template.value = 0b0000001#7 := by decide
  obtain ⟨hmask, hvalue⟩ := hfixed v hv
  rwa [hmask, BitVec.and_allOnes, hvalue] at h7

/-- A template that fixes the opcode alone matches every word of that opcode. -/
theorem matches_of_opcodeOf {value : Word} (h : encodeR 0 0 0 0 0 (opcodeOf w) = value) :
    Template.matches ⟨0x0000007F, value⟩ w = true := by
  rw [Template.matches_iff, ← h]
  conv_lhs => rw [← encodeR_fields w]
  exact Laws.rowOp ..

/-! ### The catch-all variants on a selector they do not know (R154, R160 class 2) -/

theorem readBranch_eq_none (h : funct3Of w = 2 ∨ funct3Of w = 3) : readBranch w = none := by
  unfold readBranch
  obtain h | h := h <;> rw [h] <;> rfl

theorem readLoad_eq_none (h : funct3Of w = 3 ∨ funct3Of w = 6 ∨ funct3Of w = 7) : readLoad w = none := by
  unfold readLoad
  obtain h | h | h := h <;> rw [h] <;> rfl

theorem readStore_eq_none (h : 3 ≤ (funct3Of w).toNat) : readStore w = none := by
  unfold readStore
  split
  · omega
  · omega
  · omega
  · rfl

theorem readShiftImm_eq_none
    (h : (funct3Of w = 1 ∧ funct7Of w ≠ 0) ∨ (funct3Of w = 5 ∧ funct7Of w ≠ 0 ∧ funct7Of w ≠ 0b0100000#7)) :
    readShiftImm w = none := by
  unfold readShiftImm
  obtain ⟨h3, h7⟩ | ⟨h3, h7, h7'⟩ := h
  · exact (if_pos h3).trans (if_neg h7)
  · rw [if_neg (by rw [h3]; decide)]
    exact (if_neg h7).trans (if_neg h7')

theorem readImm_eq_none (h : funct3Of w = 1 ∨ funct3Of w = 5) : readImm w = none := by
  unfold readImm
  obtain h | h := h <;> rw [h] <;> rfl

theorem readOp_eq_none (h7 : funct7Of w = 0b0100000#7) (h0 : funct3Of w ≠ 0) (h5 : funct3Of w ≠ 5) : readOp w = none := by
  unfold readOp
  rw [if_neg (by rw [h7]; decide)]
  split
  · exact absurd (BitVec.eq_of_toNat_eq ‹_›) h0
  · exact absurd (BitVec.eq_of_toNat_eq ‹_›) h5
  · rfl

end Variants

end Sys2Proof

/-! PROOFS. The dispatcher's search and its two errors: the illegal sub-opcode traps, the unmatched word is fatal (spec/30_encoding.md R150
to R154, R160). -/

namespace Sys2Proof.Machine

section Dispatch

variable {exts : List Ext} {e : Ext} {v : Variant} {w : Word} {s : State}

/-- Everything the dispatcher can answer: no variant of an enabled extension matches, or it is one that matches that decides (R150). -/
theorem dispatch_cases (exts : List Ext) (w : Word) :
    ((∀ e ∈ exts, ∀ v ∈ variantsOf e, v.template.matches w = false) ∧ dispatch exts w = .error .unmatched) ∨
    ∃ e ∈ exts, ∃ v ∈ variantsOf e, v.template.matches w = true ∧
      ((v.read w = none ∧ dispatch exts w = .error .illegalSubOpcode) ∨ ∃ i, v.read w = some i ∧ dispatch exts w = .ok i) := by
  unfold dispatch
  cases hfind : (exts.flatMap variantsOf).find? fun v => v.template.matches w with
  | none =>
    refine .inl ⟨fun e he v hv => ?_, rfl⟩
    simpa using List.find?_eq_none.1 hfind v (List.mem_flatMap_of_mem he hv)
  | some v =>
    obtain ⟨e, he, hv⟩ := List.mem_flatMap.1 (List.mem_of_find?_eq_some hfind)
    refine .inr ⟨e, he, v, hv, by simpa using List.find?_some hfind, ?_⟩
    cases hread : v.read w with
    | none => exact .inl ⟨rfl, by simp only [hread]⟩
    | some i => exact .inr ⟨i, rfl, by simp only [hread]⟩

/-! ### The illegal sub-opcodes -/

/-- A word with an unknown selector matches a catch-all variant of extension i. -/
theorem IllegalSelector.exists_matches (h : IllegalSelector w) : ∃ v ∈ variantsOf .i, v.template.matches w = true := by
  obtain ⟨hop, -⟩ | ⟨hop, -⟩ | ⟨hop, -⟩ | ⟨hop, -⟩ | ⟨hop, h7, -, -⟩ := h
  · exact ⟨⟨⟨0x0000007F, 0x00000063⟩, readBranch⟩, by simp [variantsOf, variantsI], matches_of_opcodeOf (by rw [hop]; rfl)⟩
  · exact ⟨⟨⟨0x0000007F, 0x00000003⟩, readLoad⟩, by simp [variantsOf, variantsI], matches_of_opcodeOf (by rw [hop]; rfl)⟩
  · exact ⟨⟨⟨0x0000007F, 0x00000023⟩, readStore⟩, by simp [variantsOf, variantsI], matches_of_opcodeOf (by rw [hop]; rfl)⟩
  · exact ⟨⟨⟨0x0000007F, 0x00000013⟩, readImm⟩, by simp [variantsOf, variantsI], matches_of_opcodeOf (by rw [hop]; rfl)⟩
  · refine ⟨⟨⟨0xBE00007F, 0x00000033⟩, readOp⟩, by simp [variantsOf, variantsI], Template.matches_iff.2 ((and_eq_iff ..).2 ?_)⟩
    rw [hop, h7]
    exact ⟨by decide, Laws.and_free _ (by decide), Laws.and_free _ (by decide), Laws.and_free _ (by decide),
      Laws.and_free _ (by decide), by decide⟩

/-- No variant that matches such a word reads it: the others of its opcode stand in extension m and ask for funct7 0000001. -/
theorem IllegalSelector.read_eq_none (h : IllegalSelector w) (hv : v ∈ variantsOf e) (hm : v.template.matches w = true) :
    v.read w = none := by
  have hmem := mem_variantsWithOpcode hv hm
  obtain ⟨hop, h3⟩ | ⟨hop, h3⟩ | ⟨hop, h3⟩ | ⟨hop, hsel⟩ | ⟨hop, h7, h0, h5⟩ := h
  · rw [hop, variantsWithOpcode_branch, List.mem_singleton] at hmem
    subst hmem
    exact readBranch_eq_none h3
  · rw [hop, variantsWithOpcode_load, List.mem_singleton] at hmem
    subst hmem
    exact readLoad_eq_none h3
  · rw [hop, variantsWithOpcode_store, List.mem_singleton] at hmem
    subst hmem
    exact readStore_eq_none h3
  · rw [hop, variantsWithOpcode_imm, List.mem_pair] at hmem
    obtain rfl | rfl := hmem
    · exact readShiftImm_eq_none hsel
    · exact readImm_eq_none (hsel.imp And.left And.left)
  · rw [hop, variantsWithOpcode_op, List.mem_cons] at hmem
    obtain rfl | hmul := hmem
    · exact readOp_eq_none h7 h0 h5
    · have h1 := funct7Of_of_matches_variantsM hmul hm
      exact absurd (h7.symm.trans h1) (by decide)

theorem IllegalSelector.dispatch_eq (h : IllegalSelector w) (hi : .i ∈ exts) : dispatch exts w = .error .illegalSubOpcode := by
  obtain ⟨v, hv, hm⟩ := h.exists_matches
  obtain ⟨hnone, -⟩ | ⟨e, -, v', hv', hm', ⟨-, hillegal⟩ | ⟨i, hread, -⟩⟩ := dispatch_cases exts w
  · simp [hnone _ hi v hv] at hm
  · exact hillegal
  · simp [h.read_eq_none hv' hm'] at hread

/-! ### Running a word that is no instruction -/

theorem runWord_of_illegalSubOpcode (h : dispatch s.cfg.extensions w = .error .illegalSubOpcode) :
    runWord w s = illegalInstruction s := by
  unfold runWord
  rw [h]

theorem runWord_of_unmatched (h : dispatch s.cfg.extensions w = .error .unmatched) : runWord w s = .fault (.unmatched w) := by
  unfold runWord
  rw [h]

/-! ### The step on a word of RAM -/

theorem fetch_ram (h : InRam s.cfg s.pc 4) : fetch s = .ok (s.wordAt s.pc.toNat, s) := by
  rw [fetch_of_busRead_ok (busRead_ram h), ofNat_ramRead_four]

/-- A hart that neither waits nor takes the interrupt runs the word it fetches, x0 forced to 0 before and after (R500). -/
theorem step_of_fetch {s' : State} (hwait : (beginStep s).waiting = false) (hint : interruptTaken (beginStep s) = false)
    (h : fetch (beginStep s) = .ok (w, s')) : step s = finish (runWord w s'.clearX0) := by
  unfold step runStep runPhase
  rw [hwait, hint, h]
  rfl

end Dispatch

/-- Settles O8: the matched catch-all variant does not know the selector, and the trap's code 3 is cause 2. -/
theorem illegalSubOpcodeTraps : Obligations.IllegalSubOpcodeTraps := by
  intro w s hi h
  rw [runWord_of_illegalSubOpcode (h.dispatch_eq hi)]
  exact illegalInstruction_effect s

/-- Settles O42: the fetch reads the word of RAM at pc, and running it is the fault. -/
theorem unmatchedWordIsFatal : Obligations.UnmatchedWordIsFatal := by
  intro s b hwait hint hram hunmatched
  rw [step_of_fetch hwait hint (fetch_ram hram), runWord_of_unmatched (s := b.clearX0) hunmatched]
  rfl

end Sys2Proof.Machine

/-! PROOFS. Reading the fields of I-format and U-format words (spec/30_encoding.md R134, R137, R141). -/

namespace Sys2Proof

section Fields

variable (f7 : BitVec 7) (rs2 rs1 : RegNum) (f3 : BitVec 3) (rd : RegNum) (op : BitVec 7) (imm : BitVec 12) (immUpper : BitVec 20)

@[simp] theorem opcodeOf_encodeI : opcodeOf (encodeI imm rs1 f3 rd op) = op := by rw [encodeI_eq, opcodeOf_encodeR]

@[simp] theorem rdOf_encodeI : rdOf (encodeI imm rs1 f3 rd op) = rd := by rw [encodeI_eq, rdOf_encodeR]

@[simp] theorem funct3Of_encodeI : funct3Of (encodeI imm rs1 f3 rd op) = f3 := by rw [encodeI_eq, funct3Of_encodeR]

@[simp] theorem rs1Of_encodeI : rs1Of (encodeI imm rs1 f3 rd op) = rs1 := by rw [encodeI_eq, rs1Of_encodeR]

@[simp] theorem immIOf_encodeI : immIOf (encodeI imm rs1 f3 rd op) = imm := by
  unfold immIOf bits encodeI
  rw [extract_append_high _ _ _ _ (by omega), extract_append_high _ _ _ _ (by omega), extract_append_high _ _ _ _ (by omega),
    extract_append_high _ _ _ _ (by omega)]
  exact extract_all _

@[simp] theorem shamtOf_encodeR : shamtOf (encodeR f7 rs2 rs1 f3 rd op) = rs2 := rs2Of_encodeR ..

@[simp] theorem opcodeOf_encodeU : opcodeOf (encodeU immUpper rd op) = op := by rw [encodeU_eq, opcodeOf_encodeR]

@[simp] theorem rdOf_encodeU : rdOf (encodeU immUpper rd op) = rd := by rw [encodeU_eq, rdOf_encodeR]

@[simp] theorem immUOf_encodeU : immUOf (encodeU immUpper rd op) = immUpper := by
  unfold immUOf bits encodeU
  rw [extract_append_high _ _ _ _ (by omega), extract_append_high _ _ _ _ (by omega)]
  exact extract_all _

end Fields

end Sys2Proof

/-! PROOFS. The variant that decides a word does not depend on what other extensions are enabled (spec/30_encoding.md R150, R157); the
variants that decide the words of the integer instructions. -/

namespace Sys2Proof.Machine

section DecidingVariant

variable {e e' : Ext} {v v' : Variant} {w : Word} {i : Instr}

/-! ### Templates of different extensions (R157) -/

/-- R157's comparison of the fixed bits of every pair of templates: two of different extensions differ in a bit that both fix. -/
theorem templates_of_different_extensions_conflict :
    ∀ e ∈ defaultExtensions, ∀ e' ∈ defaultExtensions, e ≠ e' → ∀ v ∈ variantsOf e, ∀ v' ∈ variantsOf e',
      v.template.value &&& v'.template.mask ≠ v'.template.value &&& v.template.mask := by decide

theorem mem_defaultExtensions (hv : v ∈ variantsOf e) : e ∈ defaultExtensions := by
  cases e with
  | i | m | a | z => decide
  | unknown => cases hv

/-- All variants that match a word stand in the list of one extension. -/
theorem ext_eq_of_matches (hv : v ∈ variantsOf e) (hv' : v' ∈ variantsOf e') (hm : v.template.matches w = true)
    (hm' : v'.template.matches w = true) : e = e' := by
  by_contra hne
  refine templates_of_different_extensions_conflict e (mem_defaultExtensions hv) e' (mem_defaultExtensions hv') hne v hv v' hv' ?_
  rw [← Template.matches_iff.1 hm, ← Template.matches_iff.1 hm']
  ac_rfl

/-! ### The first matching variant of the word's own extension decides (R150) -/

theorem matches_of_find? {vs : List Variant} (hfind : vs.find? (·.template.matches w) = some v) : v.template.matches w = true := by
  simpa using List.find?_some hfind

/-- The search through the enabled extensions ends where the search through the word's own extension does. -/
theorem find?_enabled {exts : List Ext} (he : e ∈ exts) (hfind : (variantsOf e).find? (·.template.matches w) = some v) :
    (exts.flatMap variantsOf).find? (·.template.matches w) = some v := by
  rw [List.find?_flatMap]
  cases hfirst : exts.findSome? fun e => (variantsOf e).find? (·.template.matches w) with
  | none => exact absurd hfind (by simp [List.findSome?_eq_none_iff.1 hfirst e he])
  | some v' =>
    obtain ⟨e', -, hfind'⟩ := List.exists_of_findSome?_eq_some hfirst
    have hee' : e = e' := ext_eq_of_matches (List.mem_of_find?_eq_some hfind) (List.mem_of_find?_eq_some hfind')
      (matches_of_find? hfind) (matches_of_find? hfind')
    subst hee'
    exact hfind'.symm.trans hfind

theorem isWordOf_of_find? (hfind : (variantsOf e).find? (·.template.matches w) = some v) (hread : v.read w = some i) :
    IsWordOf e w i := by
  intro exts he
  simp only [dispatch, find?_enabled he hfind, hread]

/-- The search skips the variants of other opcodes. -/
theorem find?_variantsOf_eq_find?_filter (e : Ext) (w : Word) :
    (variantsOf e).find? (·.template.matches w) =
      ((variantsOf e).filter fun v => opcodeOf v.template.value = opcodeOf w).find? (·.template.matches w) := by
  rw [List.find?_filter]
  refine List.find?_congr fun v hv => ?_
  cases hm : v.template.matches w with
  | false => simp
  | true => simp [opcodeOf_of_matches hv hm]

/-- A word that the first variant of its opcode matches. -/
theorem isWordOf_of_first {vs : List Variant}
    (hopcode : ((variantsOf e).filter fun v => opcodeOf v.template.value = opcodeOf w) = v :: vs)
    (hm : v.template.matches w = true) (hread : v.read w = some i) : IsWordOf e w i := by
  refine isWordOf_of_find? ?_ hread
  rw [find?_variantsOf_eq_find?_filter, hopcode]
  simp [hm]

/-- A word that the second variant of its opcode matches, and not the first. -/
theorem isWordOf_of_second {vs : List Variant}
    (hopcode : ((variantsOf e).filter fun v => opcodeOf v.template.value = opcodeOf w) = v' :: v :: vs)
    (hm' : ¬ v'.template.matches w = true) (hm : v.template.matches w = true) (hread : v.read w = some i) : IsWordOf e w i := by
  refine isWordOf_of_find? ?_ hread
  rw [find?_variantsOf_eq_find?_filter, hopcode]
  simp [hm', hm]

end DecidingVariant

/-! ### The words of the integer instructions -/

section IntegerWords

variable {i : Instr} {w : Word}

theorem isWordOf_lui (rd : RegNum) (imm : BitVec 20) : IsWordOf .i (encodeU imm rd 0b0110111#7) (.lui rd imm) :=
  isWordOf_of_first (v := ⟨⟨0x0000007F, 0x00000037⟩, fun w => some (.lui (rdOf w) (immUOf w))⟩)
    (by rw [opcodeOf_encodeU]; rfl) (matches_of_opcodeOf (by rw [opcodeOf_encodeU]; rfl)) (by simp)

theorem isWordOf_auipc (rd : RegNum) (imm : BitVec 20) : IsWordOf .i (encodeU imm rd 0b0010111#7) (.auipc rd imm) :=
  isWordOf_of_first (v := ⟨⟨0x0000007F, 0x00000017⟩, fun w => some (.auipc (rdOf w) (immUOf w))⟩)
    (by rw [opcodeOf_encodeU]; rfl) (matches_of_opcodeOf (by rw [opcodeOf_encodeU]; rfl)) (by simp)

/-- OP's template leaves bit 30 of the word open, and nothing else of funct7 (R220). -/
theorem isWordOf_op (hop : opcodeOf w = 0b0110011#7) (h7 : funct7Of w &&& 0b1011111#7 = 0#7) (hread : readOp w = some i) :
    IsWordOf .i w i := by
  refine isWordOf_of_first (v := ⟨⟨0xBE00007F, 0x00000033⟩, readOp⟩) (by rw [hop]; rfl) ?_ hread
  rw [Template.matches_iff, and_eq_iff, hop]
  exact ⟨h7, Laws.and_free _ rfl, Laws.and_free _ rfl, Laws.and_free _ rfl, Laws.and_free _ rfl, rfl⟩

/-- SHIFTI's template fixes the opcode and the two low bits of funct3 (R215). -/
theorem matches_shiftImm_iff (hop : opcodeOf w = 0b0010011#7) :
    Template.matches ⟨0x0000307F, 0x00001013⟩ w = true ↔ funct3Of w &&& 0b011#3 = 0b001#3 := by
  rw [Template.matches_iff, and_eq_iff, hop]
  constructor
  · rintro ⟨-, -, -, h3, -, -⟩
    exact h3
  · intro h3
    exact ⟨Laws.and_free _ rfl, Laws.and_free _ rfl, Laws.and_free _ rfl, h3, Laws.and_free _ rfl, rfl⟩

theorem isWordOf_shiftImm (hop : opcodeOf w = 0b0010011#7) (h3 : funct3Of w &&& 0b011#3 = 0b001#3) (hread : readShiftImm w = some i) :
    IsWordOf .i w i :=
  isWordOf_of_first (v := ⟨⟨0x0000307F, 0x00001013⟩, readShiftImm⟩) (by rw [hop]; rfl) ((matches_shiftImm_iff hop).2 h3) hread

/-- IMM's template fixes the opcode alone, but stands behind SHIFTI's (R205). -/
theorem isWordOf_imm (hop : opcodeOf w = 0b0010011#7) (h3 : funct3Of w &&& 0b011#3 ≠ 0b001#3) (hread : readImm w = some i) :
    IsWordOf .i w i :=
  isWordOf_of_second (v := ⟨⟨0x0000007F, 0x00000013⟩, readImm⟩) (by rw [hop]; rfl) (mt (matches_shiftImm_iff hop).1 h3)
    (matches_of_opcodeOf (by rw [hop]; rfl)) hread

end IntegerWords

end Sys2Proof.Machine

/-! PROOFS. The operations of the integer instructions in terms of the integers that their operands stand for (spec/00_scope.md R17, R18,
spec/30_encoding.md R140, spec/41_i_integer.md R220). -/

namespace Sys2Proof.Machine

section IntegerOperations

variable (x y : Word) (imm : BitVec 12)

theorem immU_eq_ofNat (imm : BitVec 20) : immU imm = BitVec.ofNat 32 (imm.toNat * 2 ^ 12) := by
  apply BitVec.eq_of_toNat_eq
  rw [immU, BitVec.toNat_append, Nat.shiftLeft_eq, BitVec.toNat_ofNat, BitVec.toNat_ofNat, Nat.zero_mod, Nat.or_zero]
  omega

theorem word_add_immU_eq_ofNat (imm : BitVec 20) : x + immU imm = BitVec.ofNat 32 (x.toNat + imm.toNat * 2 ^ 12) := by
  rw [immU_eq_ofNat, BitVec.ofNat_add, BitVec.ofNat_toNat, BitVec.setWidth_eq]

theorem word_add_sext_eq_ofInt : x + sext imm = BitVec.ofInt 32 (x.toInt + imm.toInt) := by
  rw [BitVec.ofInt_add, BitVec.ofInt_toInt]
  rfl

theorem word_add_eq_ofNat : x + y = BitVec.ofNat 32 (x.toNat + y.toNat) := by
  simp [BitVec.ofNat_add]

theorem word_sub_eq_ofInt : x - y = BitVec.ofInt 32 (x.toNat - y.toNat) := by
  rw [Int.sub_eq_add_neg, BitVec.ofInt_add, BitVec.ofInt_neg, BitVec.ofInt_natCast, BitVec.ofInt_natCast, BitVec.ofNat_toNat,
    BitVec.ofNat_toNat, BitVec.setWidth_eq, BitVec.setWidth_eq, BitVec.sub_eq_add_neg]

theorem word_shiftLeft_eq_ofNat (k : Nat) : x <<< k = BitVec.ofNat 32 (x.toNat * 2 ^ k) := by
  rw [← Nat.shiftLeft_eq]
  rfl

theorem word_ushiftRight_eq_ofNat (k : Nat) : x >>> k = BitVec.ofNat 32 (x.toNat / 2 ^ k) := by
  rw [← Nat.shiftRight_eq_div_pow, ← BitVec.toNat_ushiftRight, BitVec.ofNat_toNat, BitVec.setWidth_eq]

theorem word_sshiftRight_eq_ofInt (k : Nat) : x.sshiftRight k = BitVec.ofInt 32 (x.toInt / 2 ^ k) := by
  rw [BitVec.sshiftRight_eq, Int.shiftRight_eq_div_pow, Int.natCast_pow]
  rfl

theorem shiftAmount_eq_mod : shiftAmount y = y.toNat % 32 := by simp [shiftAmount]

theorem word_shiftLeft_shiftAmount : x <<< shiftAmount y = BitVec.ofNat 32 (x.toNat * 2 ^ (y.toNat % 32)) := by
  rw [word_shiftLeft_eq_ofNat, shiftAmount_eq_mod]

theorem word_ushiftRight_shiftAmount : x >>> shiftAmount y = BitVec.ofNat 32 (x.toNat / 2 ^ (y.toNat % 32)) := by
  rw [word_ushiftRight_eq_ofNat, shiftAmount_eq_mod]

theorem word_sshiftRight_shiftAmount : x.sshiftRight (shiftAmount y) = BitVec.ofInt 32 (x.toInt / 2 ^ (y.toNat % 32)) := by
  rw [word_sshiftRight_eq_ofInt, shiftAmount_eq_mod]

theorem boolWord_ltS : boolWord (ltS x y) = if x.toInt < y.toInt then 1 else 0 := by simp [boolWord, ltS]

theorem boolWord_ltU : boolWord (ltU x y) = if x.toNat < y.toNat then 1 else 0 := by simp [boolWord, ltU]

theorem boolWord_ltS_sext : boolWord (ltS x (sext imm)) = if x.toInt < imm.toInt then 1 else 0 := by
  rw [boolWord_ltS, sext, BitVec.toInt_signExtend_of_le (by omega)]

end IntegerOperations

end Sys2Proof.Machine

/-! PROOFS. The integer instructions (spec/41_i_integer.md R200 to R230): the word of each, and the value it retires as the rule gives it. -/

namespace Sys2Proof.Machine

section IntegerInstructions

variable {e : Ext} {w : Word} {i : Instr} {rd rs1 : RegNum} {u v : State → Word}

/-- An instruction whose meaning is one `retire`, of a value that equals the rule's. -/
theorem computes_of_retire (hword : IsWordOf e w i) (hexec : ∀ s, exec i s = retire rd (u s) s) (hvalue : ∀ s, u s = v s) :
    Computes e w i rd v := by
  rw [← funext hvalue]
  exact ⟨hword, computesInto_of_retire hexec⟩

theorem computes_imm {imm : BitVec 12} {f3 : BitVec 3} (h3 : f3 &&& 0b011#3 ≠ 0b001#3)
    (hread : readImm (encodeI imm rs1 f3 rd 0b0010011#7) = some i) (hexec : ∀ s, exec i s = retire rd (u s) s)
    (hvalue : ∀ s, u s = v s) : Computes .i (encodeI imm rs1 f3 rd 0b0010011#7) i rd v :=
  computes_of_retire (isWordOf_imm (opcodeOf_encodeI ..) (by rwa [funct3Of_encodeI]) hread) hexec hvalue

theorem computes_shiftImm {f7 : BitVec 7} {shamt : BitVec 5} {f3 : BitVec 3} (h3 : f3 &&& 0b011#3 = 0b001#3)
    (hread : readShiftImm (encodeR f7 shamt rs1 f3 rd 0b0010011#7) = some i) (hexec : ∀ s, exec i s = retire rd (u s) s)
    (hvalue : ∀ s, u s = v s) : Computes .i (encodeR f7 shamt rs1 f3 rd 0b0010011#7) i rd v :=
  computes_of_retire (isWordOf_shiftImm (opcodeOf_encodeR ..) (by rwa [funct3Of_encodeR]) hread) hexec hvalue

theorem computes_op {f7 : BitVec 7} {rs2 : RegNum} {f3 : BitVec 3} (h7 : f7 &&& 0b1011111#7 = 0#7)
    (hread : readOp (encodeR f7 rs2 rs1 f3 rd 0b0110011#7) = some i) (hexec : ∀ s, exec i s = retire rd (u s) s)
    (hvalue : ∀ s, u s = v s) : Computes .i (encodeR f7 rs2 rs1 f3 rd 0b0110011#7) i rd v :=
  computes_of_retire (isWordOf_op (opcodeOf_encodeR ..) (by rwa [funct7Of_encodeR]) hread) hexec hvalue

end IntegerInstructions

/-- Settles O9: each retires immU, AUIPC added to the pc. -/
theorem upperImmediateResults : Obligations.UpperImmediateResults := fun rd imm =>
  ⟨computes_of_retire (isWordOf_lui rd imm) (fun _ => rfl) fun _ => immU_eq_ofNat imm,
    computes_of_retire (isWordOf_auipc rd imm) (fun _ => rfl) fun s => word_add_immU_eq_ofNat s.pc imm⟩

/-- Settles O10: IMM reads the word, because SHIFTI before it asks for funct3 001 or 101. -/
theorem registerImmediateResults : Obligations.RegisterImmediateResults := by
  intro rd rs1 imm
  refine ⟨?addi, ?slti, ?sltiu, ?xori, ?ori, ?andi⟩
  case addi => exact computes_imm (by decide) (by simp [readImm]) (fun _ => rfl) fun _ => word_add_sext_eq_ofInt ..
  case slti => exact computes_imm (by decide) (by simp [readImm]) (fun _ => rfl) fun _ => boolWord_ltS_sext ..
  case sltiu => exact computes_imm (by decide) (by simp [readImm]) (fun _ => rfl) fun _ => boolWord_ltU ..
  case xori | ori | andi => exact computes_imm (by decide) (by simp [readImm]) (fun _ => rfl) fun _ => rfl

/-- Settles O11: SHIFTI reads the word; with any other funct7 the word is an illegal sub-opcode. -/
theorem shiftImmediateResults : Obligations.ShiftImmediateResults := by
  refine ⟨fun rd rs1 shamt => ⟨?slli, ?srli, ?srai⟩, fun w s hi hop hsel => ?illegal⟩
  case slli => exact computes_shiftImm rfl (by simp [readShiftImm]) (fun _ => rfl) fun _ => word_shiftLeft_eq_ofNat ..
  case srli => exact computes_shiftImm rfl (by simp [readShiftImm]) (fun _ => rfl) fun _ => word_ushiftRight_eq_ofNat ..
  case srai => exact computes_shiftImm rfl (by simp [readShiftImm]) (fun _ => rfl) fun _ => word_sshiftRight_eq_ofInt ..
  case illegal => exact illegalSubOpcodeTraps w s hi (.inr (.inr (.inr (.inl ⟨hop, hsel⟩))))

/-- Settles O12: OP reads the word; a register shift is by x[rs2] modulo 32. -/
theorem registerRegisterResults : Obligations.RegisterRegisterResults := by
  intro rd rs1 rs2
  refine ⟨?add, ?sub, ?sll, ?slt, ?sltu, ?xor, ?srl, ?sra, ?or, ?and⟩
  case add => exact computes_op rfl (by simp [readOp]) (fun _ => rfl) fun _ => word_add_eq_ofNat ..
  case sub => exact computes_op rfl (by simp [readOp]) (fun _ => rfl) fun _ => word_sub_eq_ofInt ..
  case sll => exact computes_op rfl (by simp [readOp]) (fun _ => rfl) fun _ => word_shiftLeft_shiftAmount ..
  case slt => exact computes_op rfl (by simp [readOp]) (fun _ => rfl) fun _ => boolWord_ltS ..
  case sltu => exact computes_op rfl (by simp [readOp]) (fun _ => rfl) fun _ => boolWord_ltU ..
  case srl => exact computes_op rfl (by simp [readOp]) (fun _ => rfl) fun _ => word_ushiftRight_shiftAmount ..
  case sra => exact computes_op rfl (by simp [readOp]) (fun _ => rfl) fun _ => word_sshiftRight_shiftAmount ..
  case xor | or | and => exact computes_op rfl (by simp [readOp]) (fun _ => rfl) fun _ => rfl

end Sys2Proof.Machine

/-! PROOFS. Reading the fields of B-format and J-format words (spec/30_encoding.md R136, R138, R139). -/

namespace Sys2Proof

section BranchAndJumpFields

variable (rs2 rs1 : RegNum) (f3 : BitVec 3) (rd : RegNum) (op : BitVec 7) {offB : BitVec 13} {offJ : BitVec 21}

/-- Two adjacent fields of a value side by side are one field. -/
theorem extract_append_extract {n : Nat} (x : BitVec n) (lo len m : Nat) :
    x.extractLsb' (lo + len) m ++ x.extractLsb' lo len = x.extractLsb' lo (m + len) := by
  rw [BitVec.extractLsb'_append_extractLsb'_eq_extractLsb' rfl]

/-- An offset whose bit 0 is not encoded is its upper bits and a 0. -/
theorem extract_append_zero_of_even {n : Nat} {x : BitVec (n + 1)} (h : x.getLsbD 0 = false) : x.extractLsb' 1 n ++ 0#1 = x := by
  apply BitVec.eq_of_getLsbD_eq
  intro k hk
  rw [BitVec.getLsbD_append]
  cases k with
  | zero => simpa using h.symm
  | succ k => simp [show k < n by omega, Nat.add_comm 1 k]

@[simp] theorem opcodeOf_encodeB : opcodeOf (encodeB offB rs2 rs1 f3 op) = op := by rw [encodeB_eq, opcodeOf_encodeR]

@[simp] theorem funct3Of_encodeB : funct3Of (encodeB offB rs2 rs1 f3 op) = f3 := by rw [encodeB_eq, funct3Of_encodeR]

@[simp] theorem rs1Of_encodeB : rs1Of (encodeB offB rs2 rs1 f3 op) = rs1 := by rw [encodeB_eq, rs1Of_encodeR]

@[simp] theorem rs2Of_encodeB : rs2Of (encodeB offB rs2 rs1 f3 op) = rs2 := by rw [encodeB_eq, rs2Of_encodeR]

theorem immBOf_encodeB (h : offB.getLsbD 0 = false) : immBOf (encodeB offB rs2 rs1 f3 op) = offB := by
  unfold immBOf bits encodeB
  simp (disch := omega) only [extract_append_high, extract_append_low, extract_all, Nat.reduceSub]
  rw [extract_append_extract offB 11 1 1, extract_append_extract offB 5 6 2, extract_append_extract offB 1 4 8]
  exact extract_append_zero_of_even h

@[simp] theorem opcodeOf_encodeJ : opcodeOf (encodeJ offJ rd op) = op := by rw [encodeJ_eq, opcodeOf_encodeR]

@[simp] theorem rdOf_encodeJ : rdOf (encodeJ offJ rd op) = rd := by rw [encodeJ_eq, rdOf_encodeR]

theorem immJOf_encodeJ (h : offJ.getLsbD 0 = false) : immJOf (encodeJ offJ rd op) = offJ := by
  unfold immJOf bits encodeJ
  simp (disch := omega) only [extract_append_high, extract_append_low, extract_all, Nat.reduceSub]
  rw [extract_append_extract offJ 12 8 1, extract_append_extract offJ 11 1 9, extract_append_extract offJ 1 10 10]
  exact extract_append_zero_of_even h

end BranchAndJumpFields

end Sys2Proof

/-! PROOFS. The words of the jumps and branches, and the words of JALR's opcode that have no variant (spec/30_encoding.md R150, R152,
spec/42_i_control.md R250, R251, R255). -/

namespace Sys2Proof.Machine

section ControlWords

variable {w : Word} {i : Instr}

theorem isWordOf_jal (rd : RegNum) {off : BitVec 21} (heven : off.getLsbD 0 = false) :
    IsWordOf .i (encodeJ off rd 0b1101111#7) (.jal rd off) :=
  isWordOf_of_first (v := ⟨⟨0x0000007F, 0x0000006F⟩, fun w => some (.jal (rdOf w) (immJOf w))⟩)
    (by rw [opcodeOf_encodeJ]; rfl) (matches_of_opcodeOf (by rw [opcodeOf_encodeJ]; rfl)) (by simp [immJOf_encodeJ _ _ heven])

theorem isWordOf_jalr (rd rs1 : RegNum) (imm : BitVec 12) :
    IsWordOf .i (encodeI imm rs1 0b000#3 rd 0b1100111#7) (.jalr rd rs1 imm) :=
  isWordOf_of_first (v := ⟨⟨0x0000707F, 0x00000067⟩, fun w => some (.jalr (rdOf w) (rs1Of w) (immIOf w))⟩)
    (by rw [opcodeOf_encodeI]; rfl) (Template.matches_iff.2 (Laws.EncodesRow.jalr rd rs1 imm)) (by simp)

theorem isWordOf_branch (hop : opcodeOf w = 0b1100011#7) (hread : readBranch w = some i) : IsWordOf .i w i :=
  isWordOf_of_first (v := ⟨⟨0x0000007F, 0x00000063⟩, readBranch⟩) (by rw [hop]; rfl) (matches_of_opcodeOf (by rw [hop]; rfl)) hread

/-- A word has no variant if none of its opcode's variants matches it. -/
theorem noVariantFor_of_opcode (h : ∀ v ∈ variantsWithOpcode (opcodeOf w), ¬ v.template.matches w = true) : NoVariantFor w := by
  intro exts
  obtain ⟨-, hunmatched⟩ | ⟨e, -, v, hv, hm, -⟩ := dispatch_cases exts w
  · exact hunmatched
  · exact absurd hm (h v (mem_variantsWithOpcode hv hm))

/-- A template that fixes the opcode and funct3. -/
theorem funct3Of_of_matches {value : Word} (hm : Template.matches ⟨0x0000707F, value⟩ w = true) : funct3Of w = funct3Of value := by
  obtain ⟨-, -, -, h3, -, -⟩ := (and_eq_iff ..).1 (Template.matches_iff.1 hm)
  exact (Laws.and_fixed (m := funct3Of 0x0000707F#32) _ rfl).symm.trans h3

theorem variantsWithOpcode_jalr : variantsWithOpcode 0b1100111#7 =
    [⟨⟨0x0000707F, 0x00000067⟩, fun w => some (.jalr (rdOf w) (rs1Of w) (immIOf w))⟩] := rfl

theorem noVariantFor_jalr_opcode (hop : opcodeOf w = 0b1100111#7) (h3 : funct3Of w ≠ 0) : NoVariantFor w := by
  refine noVariantFor_of_opcode fun v hv hm => h3 ?_
  rw [hop, variantsWithOpcode_jalr, List.mem_singleton] at hv
  subst hv
  exact funct3Of_of_matches hm

end ControlWords

end Sys2Proof.Machine

/-! PROOFS. The jumps and branches (spec/42_i_control.md R250 to R261): targets in terms of the integers that the operands stand for, link
and frame. -/

namespace Sys2Proof.Machine

section ControlTransfer

variable {rs1 rs2 : RegNum} {off : BitVec 13}

/-- A pc-relative target, for offsets of any width (R18, R22). -/
theorem word_add_sext_offset_eq_ofInt {n : Nat} (x : Word) (off : BitVec n) : x + sext off = BitVec.ofInt 32 (x.toInt + off.toInt) := by
  rw [BitVec.ofInt_add, BitVec.ofInt_toInt]
  rfl

/-- R251's mask clears bit 0 and keeps the others. -/
theorem getLsbD_and_clearBit0 (x : Word) {k : Nat} (hk : k < 32) :
    (x &&& 0xFFFFFFFE#32).getLsbD k = (x.getLsbD k && decide (1 ≤ k)) := by
  rw [show 0xFFFFFFFE#32 = BitVec.allOnes 32 <<< 1 from rfl, BitVec.getLsbD_and, BitVec.getLsbD_shiftLeft, BitVec.getLsbD_allOnes]
  simp [hk, show k - 1 < 32 by omega, Nat.one_le_iff_ne_zero]

/-- Writing rd and going to `target`: `retire`, with another pc at the end. -/
theorem setReg_setPc_effect (rd : RegNum) (v target : Word) (s : State) :
    WritesReg s ((s.setReg rd v).setPc target) rd v ∧ SameButRegsPc s ((s.setReg rd v).setPc target) := by
  obtain ⟨t, ht, hwrites, -, hsame⟩ := retire_effect rd v s
  cases ht
  exact ⟨hwrites, congrArg (State.setPc · target) hsame⟩

/-- `i` has the word with `f3` for an even offset; it goes to P + `off` if `cond` holds of x[rs1] and x[rs2], to P + 4 if not, and changes
nothing but pc. -/
def BranchesOn (rs1 rs2 : RegNum) (off : BitVec 13) (f3 : BitVec 3) (i : Instr) (cond : Word → Word → Prop) : Prop :=
  (off.getLsbD 0 = false → IsWordOf .i (encodeB off rs2 rs1 f3 0b1100011#7) i) ∧
  ∀ s : State,
    (cond (s.reg rs1) (s.reg rs2) → exec i s = .next { s with pc := BitVec.ofInt 32 (s.pc.toInt + off.toInt) }) ∧
    (¬ cond (s.reg rs1) (s.reg rs2) → exec i s = .next { s with pc := s.pc + 4 })

/-- An instruction that BRANCH reads at `f3` and whose meaning is one `branch`, on a test that decides the condition. -/
theorem branchesOn_of_branch (mk : RegNum → RegNum → BitVec 13 → Instr) (test : Word → Word → Bool) {f3 : BitVec 3}
    {cond : Word → Word → Prop} (hread : ∀ w, funct3Of w = f3 → readBranch w = some (mk (rs1Of w) (rs2Of w) (immBOf w)))
    (hexec : ∀ s, exec (mk rs1 rs2 off) s = branch (test (s.reg rs1) (s.reg rs2)) off s) (htest : ∀ a b, test a b = true ↔ cond a b) :
    BranchesOn rs1 rs2 off f3 (mk rs1 rs2 off) cond := by
  constructor
  · intro heven
    refine isWordOf_branch (opcodeOf_encodeB ..) ?_
    rw [hread _ (funct3Of_encodeB ..), rs1Of_encodeB, rs2Of_encodeB, immBOf_encodeB _ _ _ _ heven]
  · intro s
    rw [hexec, branch_effect, ← htest, ← word_add_sext_offset_eq_ofInt]
    exact ⟨fun h => by rw [if_pos h], fun h => by rw [if_neg h]⟩

end ControlTransfer

/-- Settles O13: both jumps write the link and go to their target, which JALR reads before the link is written; JALR's template is the
only one of its opcode and fixes funct3. -/
theorem jumpResults : Obligations.JumpResults := by
  refine ⟨fun rd off => ⟨isWordOf_jal rd, fun s => ?jal⟩, fun rd rs1 imm => ⟨isWordOf_jalr rd rs1 imm, fun s => ?jalr⟩,
    fun _ => noVariantFor_jalr_opcode⟩
  case jal =>
    obtain ⟨hwrites, hsame⟩ := setReg_setPc_effect rd (s.pc + 4) (s.pc + sext off) s
    exact ⟨_, rfl, hwrites, word_add_sext_offset_eq_ofInt s.pc off, hsame⟩
  case jalr =>
    obtain ⟨hwrites, hsame⟩ := setReg_setPc_effect rd (s.pc + 4) ((s.reg rs1 + sext imm) &&& 0xFFFFFFFE#32) s
    refine ⟨_, rfl, hwrites, ?bit0, fun k hk1 hk => ?others, hsame⟩
    case bit0 => exact (getLsbD_and_clearBit0 _ (by omega)).trans (by simp)
    case others =>
      rw [← word_add_sext_eq_ofInt]
      exact (getLsbD_and_clearBit0 _ hk).trans (by simp [hk1])

/-- Settles O14: BRANCH reads each word, and the comparison each instruction branches on decides its condition. -/
theorem branchResults : Obligations.BranchResults := by
  intro rs1 rs2 off branches
  rw [show branches = BranchesOn rs1 rs2 off from rfl]
  refine ⟨?beq, ?bne, ?blt, ?bge, ?bltu, ?bgeu⟩
  case beq => exact branchesOn_of_branch .beq (· == ·) (fun w h => by simp [readBranch, h]) (fun _ => rfl) (by simp)
  case bne => exact branchesOn_of_branch .bne (· != ·) (fun w h => by simp [readBranch, h]) (fun _ => rfl) (by simp)
  case blt => exact branchesOn_of_branch .blt ltS (fun w h => by simp [readBranch, h]) (fun _ => rfl) (by simp [ltS])
  case bge => exact branchesOn_of_branch .bge (!ltS · ·) (fun w h => by simp [readBranch, h]) (fun _ => rfl) (by simp [ltS])
  case bltu => exact branchesOn_of_branch .bltu ltU (fun w h => by simp [readBranch, h]) (fun _ => rfl) (by simp [ltU])
  case bgeu => exact branchesOn_of_branch .bgeu (!ltU · ·) (fun w h => by simp [readBranch, h]) (fun _ => rfl) (by simp [ltU])

end Sys2Proof.Machine

/-! PROOFS. Reading the fields of S-format words, and any bits of an I-format word's immediate (spec/30_encoding.md R134, R135, R141). -/

namespace Sys2Proof

section StoreAndFenceFields

variable (rs2 rs1 : RegNum) (f3 : BitVec 3) (rd : RegNum) (op : BitVec 7) (imm : BitVec 12)

@[simp] theorem opcodeOf_encodeS : opcodeOf (encodeS imm rs2 rs1 f3 op) = op := by rw [encodeS_eq, opcodeOf_encodeR]

@[simp] theorem funct3Of_encodeS : funct3Of (encodeS imm rs2 rs1 f3 op) = f3 := by rw [encodeS_eq, funct3Of_encodeR]

@[simp] theorem rs1Of_encodeS : rs1Of (encodeS imm rs2 rs1 f3 op) = rs1 := by rw [encodeS_eq, rs1Of_encodeR]

@[simp] theorem rs2Of_encodeS : rs2Of (encodeS imm rs2 rs1 f3 op) = rs2 := by rw [encodeS_eq, rs2Of_encodeR]

@[simp] theorem immSOf_encodeS : immSOf (encodeS imm rs2 rs1 f3 op) = imm := by
  change funct7Of _ ++ rdOf _ = imm
  rw [encodeS_eq, funct7Of_encodeR, rdOf_encodeR, extract_append_extract imm 0 5 7]
  exact extract_all imm

/-- Bits 20 and up of an I-format word are its immediate. -/
theorem bits_encodeI {lo : Nat} (len : Nat) (h : 20 ≤ lo) : bits (encodeI imm rs1 f3 rd op) lo len = imm.extractLsb' (lo - 20) len := by
  unfold bits encodeI
  rw [extract_append_high _ _ _ _ (by omega), extract_append_high _ _ _ _ (by omega), extract_append_high _ _ _ _ (by omega),
    extract_append_high _ _ _ _ (by omega)]
  simp only [Nat.sub_sub, Nat.reduceAdd]

/-- The word's upper 12 bits are the three fields of FENCE side by side (R290). -/
theorem readFence_encodeI (fm pred succ : BitVec 4) :
    readFence (encodeI (fm ++ pred ++ succ) rs1 f3 rd op) = some (.fence fm pred succ rs1 rd) := by
  unfold readFence
  simp (disch := omega) only [bits_encodeI, rs1Of_encodeI, rdOf_encodeI, extract_append_high, extract_append_low, extract_all,
    Nat.reduceSub]

end StoreAndFenceFields

end Sys2Proof

/-! PROOFS. The words of the loads, the stores and FENCE, and the words of FENCE's opcode that have no variant (spec/30_encoding.md R150,
R152, spec/43_i_memory.md R280, R286, R290). -/

namespace Sys2Proof.Machine

section MemoryWords

variable {w : Word} {i : Instr}

theorem isWordOf_load (hop : opcodeOf w = 0b0000011#7) (hread : readLoad w = some i) : IsWordOf .i w i :=
  isWordOf_of_first (v := ⟨⟨0x0000007F, 0x00000003⟩, readLoad⟩) (by rw [hop]; rfl) (matches_of_opcodeOf (by rw [hop]; rfl)) hread

theorem isWordOf_store (hop : opcodeOf w = 0b0100011#7) (hread : readStore w = some i) : IsWordOf .i w i :=
  isWordOf_of_first (v := ⟨⟨0x0000007F, 0x00000023⟩, readStore⟩) (by rw [hop]; rfl) (matches_of_opcodeOf (by rw [hop]; rfl)) hread

theorem isWordOf_fence (fm pred succ : BitVec 4) (rs1 rd : RegNum) :
    IsWordOf .i (encodeI (fm ++ pred ++ succ) rs1 0b000#3 rd 0b0001111#7) (.fence fm pred succ rs1 rd) :=
  isWordOf_of_first (v := ⟨⟨0x0000707F, 0x0000000F⟩, readFence⟩) (by rw [opcodeOf_encodeI]; rfl)
    (Template.matches_iff.2 (Laws.EncodesRow.fence fm pred succ rs1 rd)) (readFence_encodeI ..)

/-- A word whose opcode has one template, which fixes funct3 too, has no variant with another funct3. -/
theorem noVariantFor_of_funct3 {value : Word} {read : Word → Option Instr}
    (hvariants : variantsWithOpcode (opcodeOf w) = [⟨⟨0x0000707F, value⟩, read⟩]) (h3 : funct3Of w ≠ funct3Of value) :
    NoVariantFor w := by
  refine noVariantFor_of_opcode fun v hv hm => h3 ?_
  rw [hvariants, List.mem_singleton] at hv
  subst hv
  exact funct3Of_of_matches hm

theorem noVariantFor_fence_opcode (hop : opcodeOf w = 0b0001111#7) (h3 : funct3Of w ≠ 0) : NoVariantFor w :=
  noVariantFor_of_funct3 (value := 0x0000000F) (read := readFence) (by rw [hop]; rfl) h3

end MemoryWords

/-- Settles O23: FENCE's template is the only one of its opcode and fixes funct3; its meaning is the step to P + 4. -/
theorem fenceChangesOnlyPc : Obligations.FenceChangesOnlyPc :=
  ⟨fun fm pred succ rs1 rd => ⟨isWordOf_fence fm pred succ rs1 rd, fun _ => rfl⟩, fun _ => noVariantFor_fence_opcode⟩

end Sys2Proof.Machine

/-! PROOFS. The fatal errors of a memory access (spec/20_memory.md R83, R84): the bus raises exactly them, and every operation that makes an
access hands them on (spec/43_i_memory.md R296, spec/46_a_extension.md R351). -/

namespace Sys2Proof.Machine

section AccessErrors

variable {c : Config} {s : State} {a : Word} {n : Nat} {f : Fault}

theorem access_ne_error_of_mapped (h : Mapped c a n) : access c a n ≠ .error f := by
  obtain hram | huart := h
  · simp [access_ram hram]
  · simp [access_uart huart]

/-- The converse of `access_fails`: an access that is not mapped fails in one way only. -/
theorem access_eq_error_iff (hpos : 1 ≤ n) : access c a n = .error f ↔ AccessFails c a n f := by
  refine ⟨fun herror => ?_, access_fails hpos⟩
  have hmapped : ¬ Mapped c a n := fun h => access_ne_error_of_mapped h herror
  have hfault {g : Fault} (hg : AccessFails c a n g) : f = g := by simpa [access_fails hpos hg] using herror.symm
  by_cases hunmapped : Unmapped c a
  · exact .inl ⟨hunmapped, hfault (.inl ⟨hunmapped, rfl⟩)⟩
  · exact .inr ⟨hunmapped, hmapped, hfault (.inr ⟨hunmapped, hmapped, rfl⟩)⟩

theorem busRead_eq_error_iff : busRead s a n = .error f ↔ access s.cfg a n = .error f := ⟨busRead_error, busRead_of_access_error⟩

theorem busWrite_eq_error_iff {v : Nat} : busWrite s a n v = .error f ↔ access s.cfg a n = .error f :=
  ⟨busWrite_error, fun h => busWrite_of_access_error h v⟩

end AccessErrors

section MemoryOperations

variable {s : State} {f : Fault} {n : Nat} {rd rs1 rs2 : RegNum} {imm : BitVec 12} {aq rl : Bool}

theorem load_eq_fault_iff {ext : Nat → Word} :
    load n ext rd rs1 imm s = .fault f ↔ access s.cfg (effAddr s rs1 imm) n = .error f := by
  rw [← busRead_eq_error_iff]
  unfold load
  cases busRead s (effAddr s rs1 imm) n with
  | error g => simp
  | ok r => simp [retire]

theorem store_eq_fault_iff : store n rs2 rs1 imm s = .fault f ↔ access s.cfg (effAddr s rs1 imm) n = .error f := by
  rw [← busWrite_eq_error_iff (v := (s.reg rs2).toNat)]
  unfold store
  cases busWrite s (effAddr s rs1 imm) n (s.reg rs2).toNat with
  | error g => simp
  | ok t => simp

theorem execLrw_eq_fault_iff : execLrw rd rs1 aq rl s = .fault f ↔ access s.cfg (s.reg rs1) 4 = .error f := by
  rw [← busRead_eq_error_iff]
  unfold execLrw
  cases busRead s (s.reg rs1) 4 with
  | error g => simp
  | ok r => simp [retire]

/-- A failing SC.W makes no access (R351). -/
theorem execScw_eq_fault_iff :
    execScw rd rs1 rs2 aq rl s = .fault f ↔ s.resv = reservationOf (s.reg rs1) ∧ access s.cfg (s.reg rs1) 4 = .error f := by
  rw [← busWrite_eq_error_iff (v := (s.reg rs2).toNat)]
  unfold execScw
  by_cases hmatch : s.resv = reservationOf (s.reg rs1)
  · rw [if_pos hmatch]
    cases busWrite s (s.reg rs1) 4 (s.reg rs2).toNat with
    | error g => simp [hmatch]
    | ok t => simp [retire]
  · simp [hmatch, retire]

/-- The write of an AMO is the same access as its read, so it does not fail after the read has succeeded. -/
theorem amo_eq_fault_iff {op : Word → Word → Word} : amo op rd rs1 rs2 s = .fault f ↔ access s.cfg (s.reg rs1) 4 = .error f := by
  rw [← busRead_eq_error_iff]
  unfold amo
  cases hread : busRead s (s.reg rs1) 4 with
  | error g => simp
  | ok r =>
    obtain ⟨v, s'⟩ := r
    have hcfg : s'.cfg = s.cfg := State.cfg_eq_of_fixedPart_eq (busRead_fixedPart hread)
    dsimp only
    cases hwrite : busWrite s' (s.reg rs1) 4 (op (BitVec.ofNat 32 v) (s.reg rs2)).toNat with
    | ok t => simp [retire]
    | error g =>
      have hfail : busRead s (s.reg rs1) 4 = .error g := busRead_of_access_error (hcfg ▸ busWrite_error hwrite)
      simp [hread] at hfail

/-- SC.W's comparison as a comparison of words: extraflags shifted down to the reservation, and the address without its top 3 bits. -/
theorem resv_eq_reservationOf_iff {a : Word} : s.resv = reservationOf a ↔ s.extraflags >>> 3 = a &&& 0x1FFFFFFF#32 := by
  have hresv : s.resv.toNat = (s.extraflags >>> 3).toNat := by
    rw [State.resv, BitVec.extractLsb'_toNat, BitVec.toNat_ushiftRight, Nat.shiftRight_eq_div_pow]
    omega
  have haddr : (reservationOf a).toNat = (a &&& 0x1FFFFFFF#32).toNat := by
    rw [reservationOf, BitVec.extractLsb'_toNat, BitVec.toNat_and]
    exact (Nat.and_two_pow_sub_one_eq_mod a.toNat 29).symm
  rw [← BitVec.toNat_inj, ← BitVec.toNat_inj, hresv, haddr]

end MemoryOperations

/-! ### Every instruction -/

/-- `res` is fatal exactly as the access `operand` is, which may be none. -/
def FaultsExactlyAt (res : Result) (c : Config) (operand : Option (Word × Nat)) : Prop :=
  ∀ f, res = .fault f ↔ ∃ a n, operand = some (a, n) ∧ AccessFails c a n f

section FaultsExactly

variable {res : Result} {c : Config} {a : Word} {n : Nat}

theorem faultsExactlyAt_none {t : State} (h : res = .next t) : FaultsExactlyAt res c none := by
  intro f
  simp [h]

theorem faultsExactlyAt_some (hpos : 1 ≤ n) (h : ∀ f, res = .fault f ↔ access c a n = .error f) :
    FaultsExactlyAt res c (some (a, n)) := by
  intro f
  rw [h, access_eq_error_iff hpos]
  constructor
  · exact fun hfails => ⟨a, n, rfl, hfails⟩
  · rintro ⟨_, _, ⟨⟩, hfails⟩
    exact hfails

theorem csrOp_faultsExactlyAt_none (k : CsrKind) (rd : RegNum) (num : CsrNum) (field : BitVec 5) (src : Word) (s : State) :
    FaultsExactlyAt (csrOp k rd num field src s) c none := by
  obtain ⟨htrap, -⟩ | ⟨_, -, -, haccess⟩ := csrOp_cases k rd num field src s
  · exact faultsExactlyAt_none htrap
  · exact faultsExactlyAt_none haccess

theorem amo_faultsExactlyAt (op : Word → Word → Word) (rd rs1 rs2 : RegNum) (s : State) :
    FaultsExactlyAt (amo op rd rs1 rs2 s) s.cfg (some (s.reg rs1, 4)) :=
  faultsExactlyAt_some (by decide) fun _ => amo_eq_fault_iff

theorem execScw_faultsExactlyAt (rd rs1 rs2 : RegNum) (aq rl : Bool) (s : State) :
    FaultsExactlyAt (execScw rd rs1 rs2 aq rl s) s.cfg (memOperand (.scw rd rs1 rs2 aq rl) s) := by
  rw [memOperand]
  by_cases hmatch : s.resv = reservationOf (s.reg rs1)
  · rw [if_pos (resv_eq_reservationOf_iff.1 hmatch)]
    exact faultsExactlyAt_some (by decide) fun _ => execScw_eq_fault_iff.trans (and_iff_right hmatch)
  · rw [if_neg (mt resv_eq_reservationOf_iff.2 hmatch)]
    exact faultsExactlyAt_none (if_neg hmatch)

end FaultsExactly

/-- Only the instructions that make an access can be fatal, and each is so exactly as its access is. -/
theorem exec_faultsExactlyAt (i : Instr) (s : State) : FaultsExactlyAt (exec i s) s.cfg (memOperand i s) := by
  cases i with
  | lui | auipc | addi | slti | sltiu | xori | ori | andi | slli | srli | srai
  | add | sub | sll | slt | sltu | xor | srl | sra | or | and
  | mul | mulh | mulhsu | mulhu | div | divu | rem | remu
  | jal | jalr | beq | bne | blt | bge | bltu | bgeu
  | fence | ecall | ebreak | mret | wfi => exact faultsExactlyAt_none rfl
  | csrrw | csrrs | csrrc | csrrwi | csrrsi | csrrci => exact csrOp_faultsExactlyAt_none _ _ _ _ _ _
  | lb | lh | lw | lbu | lhu => exact faultsExactlyAt_some (by decide) fun _ => load_eq_fault_iff
  | sb | sh | sw => exact faultsExactlyAt_some (by decide) fun _ => store_eq_fault_iff
  | lrw =>
    dsimp only [exec]
    exact faultsExactlyAt_some (by decide) fun _ => execLrw_eq_fault_iff
  | scw => exact execScw_faultsExactlyAt _ _ _ _ _ _
  | amoswapw | amoaddw | amoxorw | amoandw | amoorw | amominw | amomaxw | amominuw | amomaxuw =>
    dsimp only [exec, execAmoswapw, execAmoaddw, execAmoxorw, execAmoandw, execAmoorw, execAmominw, execAmomaxw, execAmominuw,
      execAmomaxuw]
    exact amo_faultsExactlyAt _ _ _ _ _

/-- Settles O22: the instructions are fatal as their accesses are. -/
theorem memoryFaultsExactly : Obligations.MemoryFaultsExactly := exec_faultsExactlyAt

end Sys2Proof.Machine

/-! PROOFS. The loads and stores (spec/43_i_memory.md R280 to R289): what a mapped access leaves, and the word of each instruction. -/

namespace Sys2Proof.Machine

section LoadsAndStores

variable {s t : State} {i : Instr} {n : Nat} {rd rs1 rs2 : RegNum} {imm : BitVec 12}

/-- A bus read of `n` bytes returns an `n`-byte value, from the UART too. -/
theorem busReads_lt {a : Word} {v : Nat} (h : BusReads s t a n v) : v < 256 ^ n := by
  obtain ⟨-, rfl, -⟩ | ⟨⟨-, hpos, -⟩, rfl, -⟩ := h
  · rw [← ramRead_eq_leValue]
    exact ramRead_lt ..
  · exact (BitVec.isLt _).trans_le (Nat.le_self_pow (by omega) 256)

/-- A mapped load: the bus read, then rd and the pc are written on top of what it leaves. -/
theorem load_mapped (ext : Nat → Word) (rd : RegNum) (h : Mapped s.cfg (effAddr s rs1 imm) n) :
    ∃ t v, load n ext rd rs1 imm s = .next t ∧ BusReads s t (effAddr s rs1 imm) n v ∧ WritesReg s t rd (ext v) ∧
      t = { s with regs := t.regs, pc := s.pc + 4, uartIn := t.uartIn } := by
  obtain ⟨s', v, hread, hreads, hframe⟩ := busRead_mapped h
  obtain ⟨input, rfl⟩ : ∃ input, s' = { s with uartIn := input } := ⟨_, hframe⟩
  obtain ⟨t, hretire, hwrites, hpc, hsame⟩ := retire_effect rd (ext v) { s with uartIn := input }
  have huart : t.uartIn = input := congrArg State.uartIn hsame
  refine ⟨t, v, ?_, ?_, hwrites, ?_⟩
  · unfold load
    rw [hread]
    exact hretire
  · unfold BusReads
    rw [huart]
    exact hreads
  · rw [huart, ← show t.pc = s.pc + 4 from hpc]
    exact hsame

/-- A mapped store: the bus write, then the pc. -/
theorem store_mapped (rs2 : RegNum) (h : Mapped s.cfg (effAddr s rs1 imm) n) :
    ∃ t, store n rs2 rs1 imm s = .next t ∧ BusWrites s t (effAddr s rs1 imm) n (s.reg rs2).toNat ∧
      t = { s with pc := s.pc + 4, mem := t.mem, uartOut := t.uartOut } := by
  obtain ⟨s', hwrite, hwrites, hframe⟩ := busWrite_mapped h (s.reg rs2).toNat
  obtain ⟨ram, output, rfl⟩ : ∃ ram output, s' = { s with mem := ram, uartOut := output } := ⟨_, _, hframe⟩
  refine ⟨advance { s with mem := ram, uartOut := output }, ?_, hwrites, rfl⟩
  unfold store
  rw [hwrite]

/-- An instruction whose meaning is one `load` that reads the value as the rule does. -/
theorem loadsInto_of_load {ext read : Nat → Word} (hpos : 1 ≤ n) (hexec : ∀ s, exec i s = load n read rd rs1 imm s)
    (hext : ∀ v < 256 ^ n, read v = ext v) : LoadsInto i rd rs1 imm n ext := by
  refine fun s => ⟨fun hmapped => ?_, fun f hfails => ?_⟩
  · obtain ⟨t, v, hload, hreads, hwrites, hframe⟩ := load_mapped read rd hmapped
    rw [hext v (busReads_lt hreads)] at hwrites
    exact ⟨t, v, (hexec s).trans hload, hreads, hwrites, hframe⟩
  · exact (hexec s).trans (load_eq_fault_iff.2 (access_fails hpos hfails))

/-- An instruction whose meaning is one `store`. -/
theorem storesAt_of_store (hpos : 1 ≤ n) (hexec : ∀ s, exec i s = store n rs2 rs1 imm s) : StoresAt i rs2 rs1 imm n := by
  refine fun s => ⟨fun hmapped => ?_, fun f hfails => ?_⟩
  · rw [hexec]
    exact store_mapped rs2 hmapped
  · exact (hexec s).trans (store_eq_fault_iff.2 (access_fails hpos hfails))

/-- A value of `k` bits, zero-extended, is the value itself. -/
theorem ofNat_eq_zeroExtend_ofNat {k v : Nat} (h : v < 2 ^ k) : BitVec.ofNat 32 v = (BitVec.ofNat k v).zeroExtend 32 := by
  apply BitVec.eq_of_toNat_eq
  simp [Nat.mod_eq_of_lt h]

/-- A load instruction: LOAD reads its word, and its meaning is one `load`. -/
theorem load_results {f3 : BitVec 3} {ext read : Nat → Word} (hread : readLoad (encodeI imm rs1 f3 rd 0b0000011#7) = some i)
    (hpos : 1 ≤ n) (hexec : ∀ s, exec i s = load n read rd rs1 imm s) (hext : ∀ v < 256 ^ n, read v = ext v) :
    IsWordOf .i (encodeI imm rs1 f3 rd 0b0000011#7) i ∧ LoadsInto i rd rs1 imm n ext :=
  ⟨isWordOf_load (opcodeOf_encodeI ..) hread, loadsInto_of_load hpos hexec hext⟩

/-- A store instruction: STORE reads its word, and its meaning is one `store`. -/
theorem store_results {f3 : BitVec 3} (hread : readStore (encodeS imm rs2 rs1 f3 0b0100011#7) = some i) (hpos : 1 ≤ n)
    (hexec : ∀ s, exec i s = store n rs2 rs1 imm s) :
    IsWordOf .i (encodeS imm rs2 rs1 f3 0b0100011#7) i ∧ StoresAt i rs2 rs1 imm n :=
  ⟨isWordOf_store (opcodeOf_encodeS ..) hread, storesAt_of_store hpos hexec⟩

end LoadsAndStores

/-- Settles O17: LOAD reads each word; the value read has no more bits than a zero-extending load keeps. -/
theorem loadResults : Obligations.LoadResults := by
  intro rd rs1 imm
  refine ⟨?lb, ?lh, ?lw, ?lbu, ?lhu⟩
  case lb | lh | lw => exact load_results (by simp [readLoad]) (by decide) (fun _ => rfl) fun _ _ => rfl
  case lbu => exact load_results (by simp [readLoad]) (by decide) (fun _ => rfl) fun _ hv => ofNat_eq_zeroExtend_ofNat (k := 8) hv
  case lhu => exact load_results (by simp [readLoad]) (by decide) (fun _ => rfl) fun _ hv => ofNat_eq_zeroExtend_ofNat (k := 16) hv

/-- Settles O18: STORE reads each word. -/
theorem storeResults : Obligations.StoreResults := by
  intro rs2 rs1 imm
  refine ⟨?sb, ?sh, ?sw⟩
  case sb | sh | sw => exact store_results (by simp [readStore]) (by decide) fun _ => rfl

end Sys2Proof.Machine

/-! PROOFS. The words of SYSTEM with funct3 000: ECALL and EBREAK, and the ones that have no variant (spec/30_encoding.md R150, R152,
spec/44_i_system.md R310 to R312, spec/47_zicsr_system.md R422). -/

namespace Sys2Proof.Machine

section SystemWords

variable {w : Word} {t : Template}

/-- A template whose 32 positions are all literals matches one word. -/
theorem eq_value_of_matches_exact (hmask : t.mask = BitVec.allOnes 32) (hm : t.matches w = true) : w = t.value := by
  rw [← Template.matches_iff.1 hm, hmask, BitVec.and_allOnes]

/-- Every template of the opcode SYSTEM is one of the four exact words, or fixes the opcode and a funct3 other than 0. -/
theorem variantsWithOpcode_system_cases : ∀ v ∈ variantsWithOpcode 0b1110011#7,
    (v.template.mask = BitVec.allOnes 32 ∧ v.template.value ∈ [0x00000073#32, 0x00100073#32, 0x30200073#32, 0x10500073#32]) ∨
    (v.template.mask = 0x0000707F#32 ∧ funct3Of v.template.value ≠ 0) := by
  decide

theorem noVariantFor_system_opcode (hop : opcodeOf w = 0b1110011#7) (h3 : funct3Of w = 0)
    (hw : w ∉ [0x00000073#32, 0x00100073#32, 0x30200073#32, 0x10500073#32]) : NoVariantFor w := by
  refine noVariantFor_of_opcode fun ⟨⟨mask, value⟩, read⟩ hv hm => ?_
  rw [hop] at hv
  obtain ⟨hmask, hvalue⟩ | ⟨(rfl : mask = _), hvalue⟩ := variantsWithOpcode_system_cases _ hv
  · rw [← eq_value_of_matches_exact hmask hm] at hvalue
    exact hw hvalue
  · exact hvalue ((funct3Of_of_matches hm).symm.trans h3)

theorem isWordOf_ecall : IsWordOf .i 0x00000073#32 .ecall :=
  isWordOf_of_first (v := ⟨⟨0xFFFFFFFF, 0x00000073⟩, fun _ => some .ecall⟩) rfl rfl rfl

theorem isWordOf_ebreak : IsWordOf .i 0x00100073#32 .ebreak :=
  isWordOf_of_second (v' := ⟨⟨0xFFFFFFFF, 0x00000073⟩, fun _ => some .ecall⟩)
    (v := ⟨⟨0xFFFFFFFF, 0x00100073⟩, fun _ => some .ebreak⟩) rfl (by decide) rfl rfl

end SystemWords

/-! ### The environment-call and breakpoint traps (spec/60_exceptions.md R520) -/

/-- ECALL's trap code 9 + priv is a synchronous signal, of cause 8 + priv. -/
theorem ecall_code (p : BitVec 2) :
    9 + p.setWidth 32 ≠ 0 ∧ (9 + p.setWidth 32).getLsbD 31 = false ∧ 9 + p.setWidth 32 - 1 = BitVec.ofNat 32 (8 + p.toNat) := by
  decide +revert

theorem exec_ecall_effect (s : State) :
    ∃ t, exec .ecall s = .next t ∧ TrapsWith (BitVec.ofNat 32 (8 + s.priv.toNat)) s t := by
  obtain ⟨hnonzero, hsync, hcause⟩ := ecall_code s.priv
  rw [← hcause]
  exact raiseTrap_effect _ hnonzero hsync s

theorem exec_ebreak_effect (s : State) : ∃ t, exec .ebreak s = .next t ∧ TrapsWith 3 s t :=
  raiseTrap_effect 4 (by decide) (by decide) s

/-- Settles O25: ECALL's template is the first of its opcode, and its meaning is the trap with code 9 + priv. -/
theorem ecallTraps : Obligations.EcallTraps := ⟨isWordOf_ecall, exec_ecall_effect⟩

/-- Settles O26: EBREAK's template is the second of its opcode, and its meaning is the trap with code 4. -/
theorem ebreakTraps : Obligations.EbreakTraps := ⟨isWordOf_ebreak, exec_ebreak_effect⟩

/-- Settles O40: a template of SYSTEM that matches would make the word one of the four, or its funct3 other than 0. -/
theorem otherSystemWordsUnmatched : Obligations.OtherSystemWordsUnmatched := fun _ => noVariantFor_system_opcode

end Sys2Proof.Machine

/-! PROOFS. The words of the multiply and divide instructions: the templates of `m` fix funct7, funct3 and the opcode, so the word's funct3
chooses the variant (spec/30_encoding.md R150, spec/45_m_extension.md R320 to R327). -/

namespace Sys2Proof.Machine

section MultiplyDivideWords

variable {v : Variant} {f3 : BitVec 3} {rd rs1 rs2 : RegNum}

theorem matches_encodeR_of_mem_variantsM (hv : v ∈ variantsM) (f7 op : BitVec 7) :
    v.template.matches (encodeR f7 rs2 rs1 f3 rd op) = true ↔ v.template.value = encodeR f7 0 0 f3 0 op := by
  have hmask : ∀ v ∈ variantsM, v.template.mask = 0xFE00707F#32 := by decide
  rw [Template.matches_iff, hmask v hv, Laws.rowR, eq_comm]

/-- The variant whose literals have the word's funct3 decides the word, whatever its registers are. -/
theorem isWordOf_mulDiv {value : Word} {mk : RegNum → RegNum → RegNum → Instr}
    (hfind : variantsM.find? (fun v => v.template.value = encodeR 0b0000001#7 0 0 f3 0 0b0110011#7) =
      some ⟨⟨0xFE00707F, value⟩, readR mk⟩) :
    IsWordOf .m (encodeR 0b0000001#7 rs2 rs1 f3 rd 0b0110011#7) (mk rd rs1 rs2) := by
  refine isWordOf_of_find? (Eq.trans ?_ hfind) (by simp [readR])
  refine List.find?_congr fun v hv => ?_
  rw [Bool.eq_iff_iff, decide_eq_true_iff]
  exact matches_encodeR_of_mem_variantsM hv ..

end MultiplyDivideWords

end Sys2Proof.Machine

/-! PROOFS. Products, quotients and remainders in terms of the integers that the operands stand for (spec/00_scope.md R17,
spec/45_m_extension.md R320 to R327). -/

namespace Sys2Proof.Machine

section MultiplyDivideOperations

variable (x y : Word)

theorem word_mul_eq_ofNat : x * y = BitVec.ofNat 32 (x.toNat * y.toNat) := by simp [BitVec.ofNat_mul]

theorem highWord_eq_ofInt (p : Int) : highWord p = BitVec.ofInt 32 (p / 2 ^ 32) := by
  have hcast : p >>> (32 : Int) = p >>> (32 : Nat) := Int.shiftRight_natCast_right p 32
  simp only [highWord, hcast, Int.shiftRight_eq_div_pow]
  rfl

theorem highWord_natCast (p : Nat) : highWord p = BitVec.ofNat 32 (p / 2 ^ 32) := by
  rw [highWord_eq_ofInt, ← BitVec.ofInt_natCast]
  rfl

/-- The operands whose signed quotient does not fit in a word. -/
theorem signedOverflow_iff : (x = 0x80000000#32 ∧ y = 0xFFFFFFFF#32) ↔ (x.toInt = -2 ^ 31 ∧ y.toInt = -1) := by
  rw [← BitVec.toInt_inj, ← BitVec.toInt_inj]
  rfl

theorem divSigned_eq : divSigned x y =
    if y = 0 then BitVec.allOnes 32 else if x.toInt = -2 ^ 31 ∧ y.toInt = -1 then BitVec.ofInt 32 (-2 ^ 31)
    else BitVec.ofInt 32 (x.toInt.tdiv y.toInt) := by
  simp only [← signedOverflow_iff]
  rfl

/-- The remainder of the quotient rounded towards zero is `tmod`, whose sign is the dividend's. -/
theorem remSigned_eq : remSigned x y =
    if y = 0 then x else if x.toInt = -2 ^ 31 ∧ y.toInt = -1 then 0 else BitVec.ofInt 32 (x.toInt.tmod y.toInt) := by
  simp only [← signedOverflow_iff, Int.tmod_def]
  rfl

end MultiplyDivideOperations

end Sys2Proof.Machine

/-! PROOFS. The multiply and divide instructions (spec/45_m_extension.md R320 to R327): the word of each, and the value it retires as the
rule gives it. -/

namespace Sys2Proof.Machine

/-- Settles O28: each retires the low word of the operands' product, or the high word of the product of the two readings. -/
theorem multiplyResults : Obligations.MultiplyResults := by
  intro rd rs1 rs2
  refine ⟨?mul, ?mulh, ?mulhsu, ?mulhu⟩
  case mul => exact computes_of_retire (isWordOf_mulDiv rfl) (fun _ => rfl) fun _ => word_mul_eq_ofNat ..
  case mulh | mulhsu => exact computes_of_retire (isWordOf_mulDiv rfl) (fun _ => rfl) fun _ => highWord_eq_ofInt _
  case mulhu => exact computes_of_retire (isWordOf_mulDiv rfl) (fun _ => rfl) fun _ => highWord_natCast _

/-- Settles O29: the zero divisor and the overflow are the first cases of each meaning; the signed remainder is `tmod`. -/
theorem divideResults : Obligations.DivideResults := by
  intro rd rs1 rs2
  refine ⟨?div, ?divu, ?rem, ?remu⟩
  case div => exact computes_of_retire (isWordOf_mulDiv rfl) (fun _ => rfl) fun _ => divSigned_eq ..
  case rem => exact computes_of_retire (isWordOf_mulDiv rfl) (fun _ => rfl) fun _ => remSigned_eq ..
  case divu | remu => exact computes_of_retire (isWordOf_mulDiv rfl) (fun _ => rfl) fun _ => rfl

end Sys2Proof.Machine

/-! PROOFS. The words of the atomics: a template of `a` fixes funct5, funct3 and the opcode, and LR.W's fixes rs2 too, so the word's funct5
chooses the variant (spec/30_encoding.md R141, R150, R152, spec/46_a_extension.md R350 to R365). -/

namespace Sys2Proof.Machine

section AtomicWords

variable {v : Variant} {w : Word} {i : Instr} {f5 : BitVec 5} {aq rl : Bool} {rd rs1 rs2 : RegNum}

theorem variantsWithOpcode_atomic : variantsWithOpcode 0b0101111#7 = variantsA := rfl

@[simp] theorem funct5_encodeA : bits (encodeA f5 aq rl rs2 rs1 rd) 27 5 = f5 := by
  unfold bits encodeA encodeR
  simp (disch := omega) only [extract_append_high, extract_all, Nat.reduceSub]

@[simp] theorem rdOf_encodeA : rdOf (encodeA f5 aq rl rs2 rs1 rd) = rd := rdOf_encodeR ..

@[simp] theorem rs1Of_encodeA : rs1Of (encodeA f5 aq rl rs2 rs1 rd) = rs1 := rs1Of_encodeR ..

@[simp] theorem rs2Of_encodeA : rs2Of (encodeA f5 aq rl rs2 rs1 rd) = rs2 := rs2Of_encodeR ..

@[simp] theorem aqOf_encodeA : aqOf (encodeA f5 aq rl rs2 rs1 rd) = aq := by
  unfold aqOf encodeA encodeR
  simp only [BitVec.getLsbD_append]
  simp

@[simp] theorem rlOf_encodeA : rlOf (encodeA f5 aq rl rs2 rs1 rd) = rl := by
  unfold rlOf encodeA encodeR
  simp only [BitVec.getLsbD_append]
  simp

/-- The template of an atomic: the word of its funct5 with 0 for every operand, and the mask of the fixed fields. -/
theorem template_of_mem_variantsA : ∀ v ∈ variantsA,
    v.template.value = encodeA (bits v.template.value 27 5) false false 0 0 0 ∧
    v.template.mask = if bits v.template.value 27 5 = 0b00010#5 then 0xF9F0707F#32 else 0xF800707F#32 := by decide

theorem funct5_mem_of_mem_variantsA : ∀ v ∈ variantsA, bits v.template.value 27 5 ∈ [0b00010#5, 0b00011#5, 0b00001#5, 0b00000#5,
    0b00100#5, 0b01100#5, 0b01000#5, 0b10000#5, 0b10100#5, 0b11000#5, 0b11100#5] := by decide

/-- What a word that an atomic's template matches has in its fields. -/
theorem fields_of_matches_variantsA (hv : v ∈ variantsA) (hm : v.template.matches w = true) :
    funct3Of w = 0b010#3 ∧ bits w 27 5 = bits v.template.value 27 5 ∧ (bits w 27 5 = 0b00010#5 → rs2Of w = 0) := by
  have hmasks : ∀ v ∈ variantsA, funct3Of v.template.mask = BitVec.allOnes 3 ∧ funct3Of v.template.value = 0b010#3 ∧
      bits v.template.mask 27 5 = BitVec.allOnes 5 ∧
      (bits v.template.value 27 5 = 0b00010#5 → rs2Of v.template.mask = BitVec.allOnes 5 ∧ rs2Of v.template.value = 0) := by decide
  obtain ⟨hmask3, hvalue3, hmask5, hlr⟩ := hmasks v hv
  have hmasked := Template.matches_iff.1 hm
  obtain ⟨-, h2, -, h3, -, -⟩ := (and_eq_iff ..).1 hmasked
  have h5 : bits w 27 5 = bits v.template.value 27 5 := by rw [← hmasked, bits_and, hmask5, BitVec.and_allOnes]
  refine ⟨?_, h5, fun hw => ?_⟩
  · rwa [hmask3, BitVec.and_allOnes, hvalue3] at h3
  · obtain ⟨hmask2, hvalue2⟩ := hlr (h5 ▸ hw)
    rwa [hmask2, BitVec.and_allOnes, hvalue2] at h2

/-- An atomic's word, whose rs2 field is 0 if it is an LR.W, is matched by the template of its funct5 and by no other. -/
theorem matches_encodeA_iff (hv : v ∈ variantsA) (hlr : f5 = 0b00010#5 → rs2 = 0) :
    v.template.matches (encodeA f5 aq rl rs2 rs1 rd) = true ↔ bits v.template.value 27 5 = f5 := by
  refine ⟨fun hm => ?_, ?_⟩
  · obtain ⟨-, h5, -⟩ := fields_of_matches_variantsA hv hm
    rw [← h5, funct5_encodeA]
  · rintro rfl
    obtain ⟨hvalue, hmask⟩ := template_of_mem_variantsA v hv
    rw [Template.matches_iff, hmask]
    split
    · rename_i h
      rw [hlr h, Laws.rowLr, ← hvalue]
    · rw [Laws.rowA, ← hvalue]

/-- The variant with the word's funct5 decides it, whatever its other fields are. -/
theorem isWordOf_atomic (hfind : variantsA.find? (fun v => bits v.template.value 27 5 = f5) = some v)
    (hread : v.read (encodeA f5 aq rl rs2 rs1 rd) = some i) (hlr : f5 = 0b00010#5 → rs2 = 0) :
    IsWordOf .a (encodeA f5 aq rl rs2 rs1 rd) i := by
  refine isWordOf_of_find? (Eq.trans ?_ hfind) hread
  refine List.find?_congr fun v hv => ?_
  rw [Bool.eq_iff_iff, decide_eq_true_iff]
  exact matches_encodeA_iff hv hlr

theorem readAmo_encodeA (mk : RegNum → RegNum → RegNum → Bool → Bool → Instr) :
    readAmo mk (encodeA f5 aq rl rs2 rs1 rd) = some (mk rd rs1 rs2 aq rl) := by
  simp [readAmo]

/-! ### The words of the opcode that no variant matches (R152) -/

theorem noVariantFor_atomic_opcode (hop : opcodeOf w = 0b0101111#7) (h : ∀ v ∈ variantsA, ¬ v.template.matches w = true) :
    NoVariantFor w :=
  noVariantFor_of_opcode (by rwa [hop, variantsWithOpcode_atomic])

theorem noVariantFor_lrw_rs2 (hop : opcodeOf w = 0b0101111#7) (h5 : bits w 27 5 = 0b00010#5) (h2 : rs2Of w ≠ 0) : NoVariantFor w := by
  refine noVariantFor_atomic_opcode hop fun v hv hm => h2 ?_
  obtain ⟨-, -, hlr⟩ := fields_of_matches_variantsA hv hm
  exact hlr h5

theorem noVariantFor_other_atomic (hop : opcodeOf w = 0b0101111#7)
    (h : funct3Of w ≠ 2 ∨ bits w 27 5 ∉ [0b00010#5, 0b00011#5, 0b00001#5, 0b00000#5, 0b00100#5, 0b01100#5, 0b01000#5, 0b10000#5,
      0b10100#5, 0b11000#5, 0b11100#5]) : NoVariantFor w := by
  refine noVariantFor_atomic_opcode hop fun v hv hm => ?_
  obtain ⟨h3, h5, -⟩ := fields_of_matches_variantsA hv hm
  obtain hne | hnot := h
  · exact hne h3
  · exact hnot (h5 ▸ funct5_mem_of_mem_variantsA v hv)

end AtomicWords

end Sys2Proof.Machine

/-! PROOFS. LR.W, SC.W and the AMOs (spec/46_a_extension.md R350 to R364): what a mapped access leaves, and the word of each instruction. -/

namespace Sys2Proof.Machine

/-! ### The reservation in extraflags (spec/10_state.md R40) -/

/-- Replacing the reservation keeps priv and wfi. -/
theorem setField_resv (flags : Word) (r : BitVec 29) : setField flags 3 r = (flags &&& 7) ||| (r.setWidth 32 <<< 3) := rfl

theorem setField_reservationOf (flags a : Word) : setField flags 3 (reservationOf a) = (flags &&& 7) ||| (a <<< 3) := by
  have hshift : (reservationOf a).setWidth 32 <<< 3 = a <<< 3 := by
    apply BitVec.eq_of_toNat_eq
    simp only [reservationOf, BitVec.toNat_shiftLeft, BitVec.toNat_setWidth, BitVec.extractLsb'_toNat, Nat.shiftLeft_eq]
    omega
  rw [setField_resv, hshift]

theorem setField_resv_zero (flags : Word) : setField flags 3 (0 : BitVec 29) = flags &&& 7 :=
  (setField_resv flags 0).trans (BitVec.or_zero ..)

section Atomics

variable {s s' s'' : State} {i : Instr} {f5 : BitVec 5} {rd rs1 rs2 : RegNum} {aq rl : Bool} {op op' : Word → Word → Word}

/-- `retire` as one update of the registers and pc. -/
theorem retire_eq (rd : RegNum) (v : Word) (s : State) :
    ∃ regs, retire rd v s = .next { s with regs := regs, pc := s.pc + 4 } ∧
      WritesReg s { s with regs := regs, pc := s.pc + 4 } rd v := by
  obtain ⟨t, hretire, hwrites, hpc, hsame⟩ := retire_effect rd v s
  obtain ⟨regs, pc, rfl⟩ : ∃ regs pc, t = { s with regs := regs, pc := pc } := ⟨_, _, hsame⟩
  obtain rfl : pc = s.pc + 4 := hpc
  exact ⟨regs, hretire, hwrites⟩

/-! ### LR.W (R350) -/

theorem execLrw_of_busRead {v : Nat} (h : busRead s (s.reg rs1) 4 = .ok (v, s')) :
    execLrw rd rs1 aq rl s = retire rd (BitVec.ofNat 32 v) (s'.setResv (reservationOf (s.reg rs1))) := by
  unfold execLrw
  rw [h]

theorem execLrw_mapped (aq rl : Bool) (h : Mapped s.cfg (s.reg rs1) 4) :
    ∃ t v, execLrw rd rs1 aq rl s = .next t ∧ BusReads s t (s.reg rs1) 4 v ∧ WritesReg s t rd (BitVec.ofNat 32 v) ∧
      t = { s with regs := t.regs, pc := s.pc + 4, uartIn := t.uartIn, extraflags := (s.extraflags &&& 7) ||| (s.reg rs1 <<< 3) } := by
  obtain ⟨s', v, hread, hreads, hframe⟩ := busRead_mapped h
  obtain ⟨input, rfl⟩ : ∃ input, s' = { s with uartIn := input } := ⟨_, hframe⟩
  obtain ⟨regs, hretire, hwrites⟩ :=
    retire_eq rd (BitVec.ofNat 32 v) (State.setResv { s with uartIn := input } (reservationOf (s.reg rs1)))
  refine ⟨_, v, (execLrw_of_busRead hread).trans hretire, hreads, hwrites, ?_⟩
  rw [← setField_reservationOf]
  rfl

/-! ### SC.W (R351) -/

theorem execScw_of_busWrite (hresv : s.resv = reservationOf (s.reg rs1))
    (h : busWrite s (s.reg rs1) 4 (s.reg rs2).toNat = .ok s') : execScw rd rs1 rs2 aq rl s = retire rd 0 (s'.setResv 0) := by
  unfold execScw
  rw [if_pos hresv, h]

theorem execScw_success (aq rl : Bool) (hresv : s.resv = reservationOf (s.reg rs1)) (h : Mapped s.cfg (s.reg rs1) 4) :
    ∃ t, execScw rd rs1 rs2 aq rl s = .next t ∧ BusWrites s t (s.reg rs1) 4 (s.reg rs2).toNat ∧ WritesReg s t rd 0 ∧
      t = { s with regs := t.regs, pc := s.pc + 4, mem := t.mem, uartOut := t.uartOut, extraflags := s.extraflags &&& 7 } := by
  obtain ⟨s', hwrite, hwrites, hframe⟩ := busWrite_mapped h (s.reg rs2).toNat
  obtain ⟨ram, output, rfl⟩ : ∃ ram output, s' = { s with mem := ram, uartOut := output } := ⟨_, _, hframe⟩
  obtain ⟨regs, hretire, hwritesReg⟩ := retire_eq rd 0 (State.setResv { s with mem := ram, uartOut := output } 0)
  refine ⟨_, (execScw_of_busWrite hresv hwrite).trans hretire, hwrites, hwritesReg, ?_⟩
  rw [← setField_resv_zero]
  rfl

theorem execScw_failure (aq rl : Bool) (hresv : s.resv ≠ reservationOf (s.reg rs1)) :
    ∃ t, execScw rd rs1 rs2 aq rl s = .next t ∧ WritesReg s t rd 1 ∧
      t = { s with regs := t.regs, pc := s.pc + 4, extraflags := s.extraflags &&& 7 } := by
  obtain ⟨regs, hretire, hwrites⟩ := retire_eq rd 1 (s.setResv 0)
  refine ⟨_, (if_neg hresv).trans hretire, hwrites, ?_⟩
  rw [← setField_resv_zero]
  rfl

/-! ### The AMOs (R355) -/

theorem amo_of_bus {v : Nat} (hread : busRead s (s.reg rs1) 4 = .ok (v, s'))
    (hwrite : busWrite s' (s.reg rs1) 4 (op (BitVec.ofNat 32 v) (s.reg rs2)).toNat = .ok s'') :
    amo op rd rs1 rs2 s = retire rd (BitVec.ofNat 32 v) s'' := by
  unfold amo
  rw [hread]
  dsimp only
  rw [hwrite]

/-- A mapped AMO: the read, the write on top of what it leaves, which is the same access, then rd and the pc. -/
theorem amo_mapped (op : Word → Word → Word) (rd rs2 : RegNum) (h : Mapped s.cfg (s.reg rs1) 4) :
    ∃ (t : State) (old : Word), amo op rd rs1 rs2 s = .next t ∧ BusReads s t (s.reg rs1) 4 old.toNat ∧
      BusWrites s t (s.reg rs1) 4 (op old (s.reg rs2)).toNat ∧ WritesReg s t rd old ∧
      t = { s with regs := t.regs, pc := s.pc + 4, mem := t.mem, uartIn := t.uartIn, uartOut := t.uartOut } := by
  obtain ⟨s', v, hread, hreads, hframe⟩ := busRead_mapped h
  obtain ⟨input, rfl⟩ : ∃ input, s' = { s with uartIn := input } := ⟨_, hframe⟩
  have hold : (BitVec.ofNat 32 v).toNat = v := (BitVec.toNat_ofNat ..).trans (Nat.mod_eq_of_lt (busReads_lt hreads))
  obtain ⟨s'', hwrite, hwrites, hframe'⟩ :=
    busWrite_mapped (s := { s with uartIn := input }) h (op (BitVec.ofNat 32 v) (s.reg rs2)).toNat
  obtain ⟨ram, output, rfl⟩ : ∃ ram output, s'' = { s with uartIn := input, mem := ram, uartOut := output } := ⟨_, _, hframe'⟩
  obtain ⟨regs, hretire, hwritesReg⟩ := retire_eq rd (BitVec.ofNat 32 v) { s with uartIn := input, mem := ram, uartOut := output }
  refine ⟨_, BitVec.ofNat 32 v, (amo_of_bus hread hwrite).trans hretire, ?_, hwrites, hwritesReg, rfl⟩
  rw [hold]
  exact hreads

/-- What the statement says of an AMO's effect (R355). -/
def AmoEffect (i : Instr) (rd rs1 rs2 : RegNum) (op : Word → Word → Word) : Prop :=
  ∀ s : State,
    (Mapped s.cfg (s.reg rs1) 4 → ∃ (t : State) (old : Word), exec i s = .next t ∧ BusReads s t (s.reg rs1) 4 old.toNat ∧
      BusWrites s t (s.reg rs1) 4 (op old (s.reg rs2)).toNat ∧ WritesReg s t rd old ∧
      t = { s with regs := t.regs, pc := s.pc + 4, mem := t.mem, uartIn := t.uartIn, uartOut := t.uartOut }) ∧
    (∀ f, AccessFails s.cfg (s.reg rs1) 4 f → exec i s = .fault f)

/-- An instruction whose meaning is one `amo`, with an operation that is the rule's. -/
theorem amoEffect_of_amo (hexec : ∀ s, exec i s = amo op rd rs1 rs2 s) (hop : ∀ old b, op old b = op' old b) :
    AmoEffect i rd rs1 rs2 op' := by
  obtain rfl : op = op' := funext fun old => funext (hop old)
  refine fun s => ⟨fun hmapped => ?_, fun f hfails => ?_⟩
  · rw [hexec]
    exact amo_mapped op rd rs2 hmapped
  · exact (hexec s).trans (amo_eq_fault_iff.2 (access_fails (by decide) hfails))

/-- An AMO: the variant with its funct5 reads the word, and its meaning is one `amo`. -/
theorem amo_results {mk : RegNum → RegNum → RegNum → Bool → Bool → Instr} {template : Template}
    (hfind : variantsA.find? (fun v => bits v.template.value 27 5 = f5) = some ⟨template, readAmo mk⟩) (hlr : f5 ≠ 0b00010#5)
    (hexec : ∀ s, exec (mk rd rs1 rs2 aq rl) s = amo op rd rs1 rs2 s) (hop : ∀ old b, op old b = op' old b) :
    IsWordOf .a (encodeA f5 aq rl rs2 rs1 rd) (mk rd rs1 rs2 aq rl) ∧ AmoEffect (mk rd rs1 rs2 aq rl) rd rs1 rs2 op' :=
  ⟨isWordOf_atomic hfind (readAmo_encodeA mk) fun h => absurd h hlr, amoEffect_of_amo hexec hop⟩

/-- A choice by a test is the opposite choice by the condition that the test refutes. -/
theorem select_eq_of_iff_not {test : Bool} {p : Prop} [Decidable p] (h : test = true ↔ ¬ p) (x y : Word) :
    (if test then x else y) = if p then y else x :=
  (if_congr h rfl rfl).trans (ite_not ..)

end Atomics

/-- Settles O31: the variant with LR.W's funct5 reads the word and asks for rs2 = 0; the reservation's 29 bits are all that the address
keeps when it is shifted up by 3. -/
theorem loadReservedResults : Obligations.LoadReservedResults := by
  refine ⟨fun rd rs1 aq rl => ⟨?word, fun s => ⟨execLrw_mapped aq rl, fun f hfails => ?fatal⟩⟩, fun _ => noVariantFor_lrw_rs2⟩
  case word =>
    exact isWordOf_atomic (v := ⟨⟨0xF9F0707F, 0x1000202F⟩, fun w => some (.lrw (rdOf w) (rs1Of w) (aqOf w) (rlOf w))⟩) rfl
      (by simp) fun _ => rfl
  case fatal => exact (execLrw_eq_fault_iff (aq := aq) (rl := rl)).2 (access_fails (by decide) hfails)

/-- Settles O32: SC.W stores where the reservation matches, and only there is its access made. -/
theorem storeConditionalResults : Obligations.StoreConditionalResults := by
  refine fun rd rs1 rs2 aq rl => ⟨?word, fun s => ⟨fun hmatch => ⟨?success, fun f hfails => ?fatal⟩, fun hdiffer => ?failure⟩⟩
  case word =>
    exact isWordOf_atomic (v := ⟨⟨0xF800707F, 0x1800202F⟩, readAmo .scw⟩) rfl (readAmo_encodeA .scw) nofun
  case success => exact execScw_success aq rl (resv_eq_reservationOf_iff.2 hmatch)
  case fatal =>
    exact (execScw_eq_fault_iff (aq := aq) (rl := rl)).2 ⟨resv_eq_reservationOf_iff.2 hmatch, access_fails (by decide) hfails⟩
  case failure => exact execScw_failure aq rl (mt resv_eq_reservationOf_iff.1 hdiffer)

/-- Every row of the table (R356 to R364): the variant with its funct5 reads the word, and the model's operation is the rule's. -/
theorem amoTable_results (rd rs1 rs2 : RegNum) (aq rl : Bool) :
    ∀ row ∈ amoTable rd rs1 rs2 aq rl,
      IsWordOf .a (encodeA row.1 aq rl rs2 rs1 rd) row.2.1 ∧ AmoEffect row.2.1 rd rs1 rs2 row.2.2 := by
  simp only [amoTable, List.forall_mem_cons]
  refine ⟨?swap, ?add, ?xor, ?and, ?or, ?min, ?max, ?minu, ?maxu, nofun⟩
  case swap => exact amo_results (mk := .amoswapw) (op := fun _ b => b) rfl (by decide) (fun _ => rfl) fun _ _ => rfl
  case add => exact amo_results (mk := .amoaddw) (op := (· + ·)) rfl (by decide) (fun _ => rfl) word_add_eq_ofNat
  case xor => exact amo_results (mk := .amoxorw) (op := (· ^^^ ·)) rfl (by decide) (fun _ => rfl) fun _ _ => rfl
  case and => exact amo_results (mk := .amoandw) (op := (· &&& ·)) rfl (by decide) (fun _ => rfl) fun _ _ => rfl
  case or => exact amo_results (mk := .amoorw) (op := (· ||| ·)) rfl (by decide) (fun _ => rfl) fun _ _ => rfl
  case min =>
    exact amo_results (mk := .amominw) (op := fun old b => if ltS b old then b else old) rfl (by decide) (fun _ => rfl)
      fun _ _ => select_eq_of_iff_not (by simp [ltS]) ..
  case max =>
    exact amo_results (mk := .amomaxw) (op := fun old b => if ltS old b then b else old) rfl (by decide) (fun _ => rfl)
      fun _ _ => select_eq_of_iff_not (by simp [ltS]) ..
  case minu =>
    exact amo_results (mk := .amominuw) (op := fun old b => if ltU b old then b else old) rfl (by decide) (fun _ => rfl)
      fun _ _ => select_eq_of_iff_not (by simp [ltU]) ..
  case maxu =>
    exact amo_results (mk := .amomaxuw) (op := fun old b => if ltU old b then b else old) rfl (by decide) (fun _ => rfl)
      fun _ _ => select_eq_of_iff_not (by simp [ltU]) ..

/-- Settles O33: the statement is the table, row by row. -/
theorem amoResults : Obligations.AmoResults := fun rd rs1 rs2 aq rl f5 i op hmem =>
  amoTable_results rd rs1 rs2 aq rl (f5, i, op) hmem

end Sys2Proof.Machine

/-! PROOFS. aq and rl (spec/46_a_extension.md R365): words that differ in bits 25 and 26 alone are matched by the same variants of the AMO
opcode, and what those variants read from them has the same meaning. -/

namespace Sys2Proof.Machine

/-- Two words that differ in aq and rl (R141) at most. -/
def SameButAqRl (v w : Word) : Prop := ∀ k, k < 32 → k ≠ 25 → k ≠ 26 → v.getLsbD k = w.getLsbD k

section AcquireRelease

variable {v w : Word} {u : Variant} {e : Ext} {exts : List Ext} {s : State}

theorem SameButAqRl.symm (h : SameButAqRl v w) : SameButAqRl w v := fun k hk h25 h26 => (h k hk h25 h26).symm

/-- A field outside bits 25 and 26. -/
theorem SameButAqRl.bits_eq (h : SameButAqRl v w) {lo len : Nat} (hlo : lo + len ≤ 25) : bits v lo len = bits w lo len := by
  apply BitVec.eq_of_getLsbD_eq
  intro k hk
  simp only [bits, BitVec.getLsbD_extractLsb', h (lo + k) (by omega) (by omega) (by omega)]

/-- No template of an atomic fixes aq or rl. -/
theorem matches_of_sameButAqRl (h : SameButAqRl v w) (hu : u ∈ variantsA) (hm : u.template.matches w = true) :
    u.template.matches v = true := by
  have hfree : ∀ u ∈ variantsA, u.template.mask.getLsbD 25 = false ∧ u.template.mask.getLsbD 26 = false := by decide
  obtain ⟨h25, h26⟩ := hfree u hu
  rw [Template.matches_iff] at hm ⊢
  rw [← hm]
  apply BitVec.eq_of_getLsbD_eq
  intro k hk
  simp only [BitVec.getLsbD_and]
  by_cases hk25 : k = 25
  · rw [hk25, h25, Bool.and_false, Bool.and_false]
  by_cases hk26 : k = 26
  · rw [hk26, h26, Bool.and_false, Bool.and_false]
  rw [h k hk hk25 hk26]

theorem mem_variantsA_of_matches (hop : opcodeOf w = 0b0101111#7) (hu : u ∈ variantsOf e) (hm : u.template.matches w = true) :
    u ∈ variantsA := by
  have hmem := mem_variantsWithOpcode hu hm
  rwa [hop, variantsWithOpcode_atomic] at hmem

/-- The dispatcher's search finds the same variant for both words. -/
theorem find?_eq_of_sameButAqRl (h : SameButAqRl v w) (hop : opcodeOf w = 0b0101111#7) (exts : List Ext) :
    (exts.flatMap variantsOf).find? (·.template.matches v) = (exts.flatMap variantsOf).find? (·.template.matches w) := by
  have hop' : opcodeOf v = 0b0101111#7 := Eq.trans (h.bits_eq (by omega)) hop
  refine List.find?_congr fun u hu => ?_
  obtain ⟨e, -, hu⟩ := List.mem_flatMap.1 hu
  rw [Bool.eq_iff_iff]
  exact ⟨fun hm => matches_of_sameButAqRl h.symm (mem_variantsA_of_matches hop' hu hm) hm,
    fun hm => matches_of_sameButAqRl h (mem_variantsA_of_matches hop hu hm) hm⟩

/-- The meaning of what a variant of `a` reads depends on the word's register fields alone. -/
def MeaningFromRegisters (u : Variant) : Prop :=
  ∃ run : RegNum → RegNum → RegNum → State → Result,
    ∀ w, ∃ i, u.read w = some i ∧ ∀ s, exec i s = run (rdOf w) (rs1Of w) (rs2Of w) s

theorem meaningFromRegisters_readAmo {template : Template} {mk : RegNum → RegNum → RegNum → Bool → Bool → Instr}
    (h : ∀ rd rs1 rs2 aq rl s, exec (mk rd rs1 rs2 aq rl) s = exec (mk rd rs1 rs2 false false) s) :
    MeaningFromRegisters ⟨template, readAmo mk⟩ :=
  ⟨fun rd rs1 rs2 => exec (mk rd rs1 rs2 false false), fun _ => ⟨_, rfl, h _ _ _ _ _⟩⟩

theorem meaningFromRegisters_of_mem_variantsA : ∀ u ∈ variantsA, MeaningFromRegisters u := by
  simp only [variantsA, List.forall_mem_cons]
  refine ⟨?lrw, ?scw, ?swap, ?add, ?xor, ?and, ?or, ?min, ?max, ?minu, ?maxu, nofun⟩
  case lrw => exact ⟨fun rd rs1 _ => execLrw rd rs1 false false, fun _ => ⟨_, rfl, fun _ => rfl⟩⟩
  case scw | swap | add | xor | and | or | min | max | minu | maxu => exact meaningFromRegisters_readAmo fun _ _ _ _ _ _ => rfl

theorem runWord_of_find?_none (h : (s.cfg.extensions.flatMap variantsOf).find? (·.template.matches w) = none) :
    runWord w s = .fault (.unmatched w) :=
  runWord_of_unmatched (by simp only [dispatch, h])

theorem runWord_of_find?_some {i : Instr} (h : (s.cfg.extensions.flatMap variantsOf).find? (·.template.matches w) = some u)
    (hread : u.read w = some i) : runWord w s = exec i s := by
  simp only [runWord, dispatch, h, hread]

/-- Both words are unmatched, or run with the same outcome. -/
theorem runWord_of_sameButAqRl (h : SameButAqRl v w) (hop : opcodeOf w = 0b0101111#7) (s : State) :
    (runWord v s = .fault (.unmatched v) ∧ runWord w s = .fault (.unmatched w)) ∨ runWord v s = runWord w s := by
  have hfind := find?_eq_of_sameButAqRl h hop s.cfg.extensions
  cases hw : (s.cfg.extensions.flatMap variantsOf).find? (·.template.matches w) with
  | none => exact .inl ⟨runWord_of_find?_none (hfind.trans hw), runWord_of_find?_none hw⟩
  | some u =>
    obtain ⟨e, -, hu⟩ := List.mem_flatMap.1 (List.mem_of_find?_eq_some hw)
    obtain ⟨run, hrun⟩ := meaningFromRegisters_of_mem_variantsA u (mem_variantsA_of_matches hop hu (matches_of_find? hw))
    obtain ⟨i, hreadv, hexecv⟩ := hrun v
    obtain ⟨j, hreadw, hexecw⟩ := hrun w
    have hrd : rdOf v = rdOf w := h.bits_eq (by omega)
    have hrs1 : rs1Of v = rs1Of w := h.bits_eq (by omega)
    have hrs2 : rs2Of v = rs2Of w := h.bits_eq (by omega)
    right
    rw [runWord_of_find?_some (hfind.trans hw) hreadv, runWord_of_find?_some hw hreadw, hexecv, hexecw, hrd, hrs1, hrs2]

end AcquireRelease

/-- Settles O34: two words that differ in aq and rl run alike unless both are unmatched, and then neither has a next state; every template
of the opcode fixes funct3 as 010 and funct5 as one of the eleven. -/
theorem acquireReleaseIgnored : Obligations.AcquireReleaseIgnored := by
  refine ⟨fun v w s hop h t => ?_, fun _ => noVariantFor_other_atomic⟩
  obtain ⟨hv, hw⟩ | heq := runWord_of_sameButAqRl h hop s
  · simp [hv, hw]
  · rw [heq]

end Sys2Proof.Machine

/-! PROOFS. The reservation (spec/46_a_extension.md R352, spec/10_state.md R40): what leaves extraflags alone, what writes its other fields,
then every instruction but LR.W and SC.W. -/

namespace Sys2Proof.Machine

section KeepsExtraflags

variable {s s' t : State}

/-! ### Operations that leave extraflags alone -/

theorem State.resv_congr (h : t.extraflags = s.extraflags) : t.resv = s.resv := congrArg (BitVec.extractLsb' 3 29) h

theorem busRead_extraflags {a : Word} {n v : Nat} (h : busRead s a n = .ok (v, s')) : s'.extraflags = s.extraflags := by
  rw [busRead_frame h]

theorem busWrite_extraflags {a : Word} {n v : Nat} (h : busWrite s a n v = .ok s') : s'.extraflags = s.extraflags := by
  rw [busWrite_frame h]

theorem retire_extraflags {rd : RegNum} {v : Word} (h : retire rd v s = .next t) : t.extraflags = s.extraflags := by
  cases h
  simp

theorem branch_extraflags {taken : Bool} {off : BitVec 13} (h : branch taken off s = .next t) : t.extraflags = s.extraflags := by
  rw [branch_effect] at h
  cases h
  rfl

theorem load_extraflags {n : Nat} {ext : Nat → Word} {rd rs1 : RegNum} {imm : BitVec 12} (h : load n ext rd rs1 imm s = .next t) :
    t.extraflags = s.extraflags := by
  obtain ⟨v, s', hread, rfl⟩ := load_next h
  simpa using busRead_extraflags hread

theorem store_extraflags {n : Nat} {rs2 rs1 : RegNum} {imm : BitVec 12} (h : store n rs2 rs1 imm s = .next t) :
    t.extraflags = s.extraflags := by
  obtain ⟨s', hwrite, rfl⟩ := store_next h
  simpa using busWrite_extraflags hwrite

theorem amo_extraflags {op : Word → Word → Word} {rd rs1 rs2 : RegNum} (h : amo op rd rs1 rs2 s = .next t) :
    t.extraflags = s.extraflags := by
  obtain ⟨v, s', s'', hread, hwrite, rfl⟩ := amo_next h
  simpa using (busWrite_extraflags hwrite).trans (busRead_extraflags hread)

end KeepsExtraflags

section KeepsReservation

variable {s t : State}

/-! ### Operations that write priv or wfi -/

@[simp] theorem State.setPc_resv (s : State) (p : Word) : (s.setPc p).resv = s.resv := rfl
@[simp] theorem State.setTrap_resv (s : State) (x : Word) : (s.setTrap x).resv = s.resv := rfl
@[simp] theorem advance_resv (s : State) : (advance s).resv = s.resv := rfl

@[simp] theorem trapEntry_resv (s : State) : (trapEntry s).resv = s.resv := by
  unfold trapEntry
  split
  · rfl
  · exact extract_setField_other _ _ _ _ _ (by omega) (by omega)

theorem raiseTrap_resv {code : Word} (h : raiseTrap code s = .next t) : t.resv = s.resv := by
  cases h
  simp

theorem enterInterrupt_resv (s : State) : (enterInterrupt s).resv = s.resv := by simp [enterInterrupt]

theorem returnFromTrap_resv (s : State) : (returnFromTrap s).resv = s.resv := State.setPriv_resv s s.statusMpp

/-- The timer check clears wfi at most (R503). -/
theorem beginStep_resv (s : State) : (beginStep s).resv = s.resv := by
  unfold State.resv
  rw [beginStep_extraflags]
  split
  · exact extract_setField_other _ _ _ _ _ (by omega) (by omega)
  · rfl

theorem csrOp_resv {k : CsrKind} {rd : RegNum} {num : CsrNum} {field : BitVec 5} {src : Word}
    (h : csrOp k rd num field src s = .next t) : t.resv = s.resv := by
  obtain ⟨htrap, -⟩ | ⟨c, -, -, haccess⟩ := csrOp_cases k rd num field src s
  · exact raiseTrap_resv (htrap.symm.trans h)
  · refine State.resv_congr ((retire_extraflags (haccess.symm.trans h)).trans ?_)
    obtain ⟨-, -, hflags, -⟩ := setCsr_frame s c (csrNew k (s.csr c) src)
    split
    · exact hflags
    · rfl

/-! ### Every other instruction -/

theorem exec_resv {i : Instr} (hlrw : ∀ rd rs1 aq rl, i ≠ .lrw rd rs1 aq rl) (hscw : ∀ rd rs1 rs2 aq rl, i ≠ .scw rd rs1 rs2 aq rl)
    (h : exec i s = .next t) : t.resv = s.resv := by
  cases i with
  | lrw => exact absurd rfl (hlrw _ _ _ _)
  | scw => exact absurd rfl (hscw _ _ _ _ _)
  | lui | auipc | addi | slti | sltiu | xori | ori | andi | slli | srli | srai
  | add | sub | sll | slt | sltu | xor | srl | sra | or | and
  | mul | mulh | mulhsu | mulhu | div | divu | rem | remu => exact State.resv_congr (retire_extraflags h)
  | jal | jalr | fence =>
    cases h
    exact State.resv_congr (by simp)
  | mret =>
    cases h
    exact returnFromTrap_resv s
  | wfi =>
    cases h
    simp
  | beq | bne | blt | bge | bltu | bgeu => exact State.resv_congr (branch_extraflags h)
  | ecall | ebreak => exact raiseTrap_resv h
  | lb | lh | lw | lbu | lhu => exact State.resv_congr (load_extraflags h)
  | sb | sh | sw => exact State.resv_congr (store_extraflags h)
  | amoswapw | amoaddw | amoxorw | amoandw | amoorw | amominw | amomaxw | amominuw | amomaxuw =>
    dsimp only [exec, execAmoswapw, execAmoaddw, execAmoxorw, execAmoandw, execAmoorw, execAmominw, execAmomaxw, execAmominuw,
      execAmomaxuw] at h
    exact State.resv_congr (amo_extraflags h)
  | csrrw | csrrs | csrrc | csrrwi | csrrsi | csrrci => exact csrOp_resv h

end KeepsReservation

/-- Settles O35: every other operation leaves extraflags alone, or writes priv or wfi in it. -/
theorem reservationWrittenOnlyByLrSc : Obligations.ReservationWrittenOnlyByLrSc :=
  ⟨fun _ _ _ hlrw hscw h => exec_resv hlrw hscw h, beginStep_resv, enterInterrupt_resv, fun _ _ h => raiseTrap_resv h⟩

end Sys2Proof.Machine

/-! PROOFS. The words of Zicsr: six templates that fix the opcode and funct3, and the exact words of MRET and WFI (spec/30_encoding.md R141,
R150, spec/47_zicsr_system.md R400 to R405, R420, R421). -/

namespace Sys2Proof.Machine

section ZicsrWords

variable {v : Variant} {f3 : BitVec 3} {num : CsrNum} {f : BitVec 5} {rd : RegNum}

@[simp] theorem csrOf_encodeI (rs1 : RegNum) (op : BitVec 7) : csrOf (encodeI num rs1 f3 rd op) = num := immIOf_encodeI ..

/-- A template of `z` is an exact word with funct3 000, or the word of its funct3 with 0 for every operand. -/
theorem template_of_mem_variantsZ : ∀ v ∈ variantsZ,
    (v.template.mask = BitVec.allOnes 32 ∧ funct3Of v.template.value = 0) ∨
    (v.template.mask = 0x0000707F#32 ∧ v.template.value = encodeR 0 0 0 (funct3Of v.template.value) 0 0b1110011#7) := by decide

/-- The word of a CSR instruction is matched by the template of its funct3 and by no other. -/
theorem matches_csrWord_iff (hv : v ∈ variantsZ) (h3 : f3 ≠ 0) :
    v.template.matches (encodeI num f f3 rd 0b1110011#7) = true ↔ funct3Of v.template.value = f3 := by
  obtain ⟨⟨mask, value⟩, read⟩ := v
  obtain ⟨hmask, hvalue⟩ | ⟨(rfl : mask = _), hvalue⟩ := template_of_mem_variantsZ _ hv
  · refine ⟨fun hm => ?_, fun h => absurd (h.symm.trans hvalue) h3⟩
    rw [← eq_value_of_matches_exact hmask hm, funct3Of_encodeI]
  · refine ⟨fun hm => ?_, ?_⟩
    · rw [← funct3Of_of_matches hm, funct3Of_encodeI]
    · rintro rfl
      exact Template.matches_iff.2 ((Laws.rowI ..).trans hvalue.symm)

/-- The variant with the word's funct3 decides it, whatever its other fields are. -/
theorem isWordOf_csr {template : Template} {mk : RegNum → CsrNum → BitVec 5 → Instr} (h3 : f3 ≠ 0)
    (hfind : variantsZ.find? (fun v => funct3Of v.template.value = f3) = some ⟨template, readCsrOperands mk⟩) :
    IsWordOf .z (encodeI num f f3 rd 0b1110011#7) (mk rd num f) := by
  refine isWordOf_of_find? (Eq.trans ?_ hfind) (by simp [readCsrOperands])
  refine List.find?_congr fun v hv => ?_
  rw [Bool.eq_iff_iff, decide_eq_true_iff]
  exact matches_csrWord_iff hv h3

theorem isWordOf_mret : IsWordOf .z 0x30200073#32 .mret :=
  isWordOf_of_find? (v := ⟨⟨0xFFFFFFFF, 0x30200073⟩, fun _ => some .mret⟩) rfl rfl

theorem isWordOf_wfi : IsWordOf .z 0x10500073#32 .wfi :=
  isWordOf_of_find? (v := ⟨⟨0xFFFFFFFF, 0x10500073⟩, fun _ => some .wfi⟩) rfl rfl

end ZicsrWords

end Sys2Proof.Machine

/-! PROOFS. The CSR instructions (spec/47_zicsr_system.md R391 to R405): what a legal access and an illegal one leave, and the six
instructions as rows of one table. -/

namespace Sys2Proof.Machine

section CsrAccess

variable {s s' : State} {c : Csr} {k : CsrKind} {rd : RegNum} {num : CsrNum} {f : BitVec 5} {src : Word} {i : Instr} {wr : Bool}
  {new : Word → Word}

/-! ### The two outcomes of the common sequence (R391, R393) -/

theorem csrOp_of_legal (hc : csrAt s.cfg num = some c) (hlegal : csrWrites k f = true → csrReadOnly c = false) :
    csrOp k rd num f src s = retire rd (s.csr c) (if csrWrites k f then s.setCsr c (csrNew k (s.csr c) src) else s) := by
  obtain ⟨-, hnone | ⟨c', hc', hw, hro⟩⟩ | ⟨c', hc', -, haccess⟩ := csrOp_cases k rd num f src s
  · simp [hc] at hnone
  · obtain rfl : c = c' := Option.some_inj.1 (hc.symm.trans hc')
    simp [hlegal hw] at hro
  · obtain rfl : c = c' := Option.some_inj.1 (hc.symm.trans hc')
    exact haccess

theorem csrOp_of_illegal
    (h : csrAt s.cfg num = none ∨ (csrWrites k f = true ∧ ∃ c, csrAt s.cfg num = some c ∧ csrReadOnly c = true)) :
    csrOp k rd num f src s = illegalInstruction s := by
  obtain ⟨htrap, -⟩ | ⟨c, hc, hlegal, -⟩ := csrOp_cases k rd num f src s
  · exact htrap
  · obtain hnone | ⟨hw, c', hc', hro⟩ := h
    · simp [hc] at hnone
    · obtain rfl : c = c' := Option.some_inj.1 (hc.symm.trans hc')
      simp [hw, hro] at hlegal

/-! ### What an access leaves -/

/-- `t` differs from `s` in the CSR `c` at most. -/
def SameButCsr (c : Csr) (s t : State) : Prop :=
  (∀ d, d ≠ c → t.csr d = s.csr d) ∧ t.regs = s.regs ∧ t.pc = s.pc ∧ t.extraflags = s.extraflags ∧ t.trap = s.trap ∧ t.mem = s.mem ∧
  t.uartIn = s.uartIn ∧ t.uartOut = s.uartOut ∧ t.elapsedIn = s.elapsedIn ∧ t.elapsedRest = s.elapsedRest ∧ t.cfg = s.cfg

theorem setCsr_sameButCsr (s : State) (c : Csr) (v : Word) : SameButCsr c s (s.setCsr c v) :=
  ⟨fun d hd => by rw [csr_setCsr, if_neg fun h => hd h.1], setCsr_frame s c v⟩

/-- A CSR write that is made only if the access attempts one, and is then legal. -/
theorem setCsr_if_effect (s : State) (v : Word) (hlegal : wr = true → csrReadOnly c = false) :
    (if wr then s.setCsr c v else s).csr c = (if wr then v else s.csr c) ∧ SameButCsr c s (if wr then s.setCsr c v else s) := by
  cases wr with
  | false => exact ⟨rfl, fun _ _ => rfl, rfl, rfl, rfl, rfl, rfl, rfl, rfl, rfl, rfl, rfl⟩
  | true => exact ⟨(csr_setCsr ..).trans (if_pos ⟨rfl, hlegal rfl⟩), setCsr_sameButCsr s c v⟩

/-- What the statement says of a CSR instruction that attempts a write iff `wr`, of the value `new` of the old one (R391 to R393). -/
def CsrEffect (i : Instr) (rd : RegNum) (num : CsrNum) (wr : Bool) (new : Word → Word) (s : State) : Prop :=
  (∀ c : Csr, s.cfg.csrMap.lookup num = some c → (wr = true → csrReadOnly c = false) →
    ∃ t, exec i s = .next t ∧ WritesReg s t rd (s.csr c) ∧ t.csr c = (if wr then new (s.csr c) else s.csr c) ∧
      (∀ d, d ≠ c → t.csr d = s.csr d) ∧ t.pc = s.pc + 4 ∧ t.extraflags = s.extraflags ∧ t.trap = s.trap ∧
      t.mem = s.mem ∧ t.uartIn = s.uartIn ∧ t.uartOut = s.uartOut ∧ t.elapsedIn = s.elapsedIn ∧
      t.elapsedRest = s.elapsedRest ∧ t.cfg = s.cfg) ∧
  ((s.cfg.csrMap.lookup num = none ∨ (wr = true ∧ ∃ c, s.cfg.csrMap.lookup num = some c ∧ csrReadOnly c = true)) →
    ∃ t, exec i s = .next t ∧ TrapsWith 2 s t)

/-- An instruction whose meaning is one `csrOp`, with the write attempt and the new value of the rule. -/
theorem csrEffect_of_csrOp (hexec : exec i s = csrOp k rd num f src s) (hwr : csrWrites k f = wr)
    (hnew : ∀ old, csrNew k old src = new old) : CsrEffect i rd num wr new s := by
  subst hwr
  obtain rfl : (fun old => csrNew k old src) = new := funext hnew
  unfold CsrEffect
  rw [hexec]
  refine ⟨fun c hc hlegal => ?legal, fun h => ?illegal⟩
  case legal =>
    obtain ⟨hcsr, hothers, hregs, hpc, hframe⟩ := setCsr_if_effect s (csrNew k (s.csr c) src) hlegal
    obtain ⟨regs, hretire, hrd, hrest⟩ :=
      retire_eq rd (s.csr c) (if csrWrites k f then s.setCsr c (csrNew k (s.csr c) src) else s)
    exact ⟨_, (csrOp_of_legal hc hlegal).trans hretire, ⟨hrd, fun r hr => (hrest r hr).trans (State.reg_congr hregs r)⟩, hcsr, hothers,
      congrArg (· + 4) hpc, hframe⟩
  case illegal =>
    rw [csrOp_of_illegal h]
    exact illegalInstruction_effect s

/-- A CSR instruction: the variant with its funct3 reads the word, and its meaning is one `csrOp`. -/
theorem csr_results {f3 : BitVec 3} {template : Template} {mk : RegNum → CsrNum → BitVec 5 → Instr} (h3 : f3 ≠ 0)
    (hfind : variantsZ.find? (fun v => funct3Of v.template.value = f3) = some ⟨template, readCsrOperands mk⟩)
    (hexec : exec (mk rd num f) s = csrOp k rd num f src s) (hwr : csrWrites k f = wr) (hnew : ∀ old, csrNew k old src = new old) :
    IsWordOf .z (encodeI num f f3 rd 0b1110011#7) (mk rd num f) ∧ CsrEffect (mk rd num f) rd num wr new s :=
  ⟨isWordOf_csr h3 hfind, csrEffect_of_csrOp hexec hwr hnew⟩

/-- R392: the kinds S and C attempt a write iff the field is not 0. -/
theorem csrWrites_of_ne_write (hk : k ≠ .write) (f : BitVec 5) : csrWrites k f = decide (f ≠ 0) := by
  simp [csrWrites, hk, bne, beq_eq_decide]

/-- Every row of the table (R400 to R405): the variant with its funct3 reads the word, and its kind and source are the rule's. -/
theorem csrTable_results (rd : RegNum) (num : CsrNum) (f : BitVec 5) (s : State) :
    ∀ row ∈ csrTable rd num f s,
      IsWordOf .z (encodeI num f row.1 rd 0b1110011#7) row.2.1 ∧ CsrEffect row.2.1 rd num row.2.2.1 row.2.2.2 s := by
  simp only [csrTable, List.forall_mem_cons]
  refine ⟨?rw, ?rs, ?rc, ?rwi, ?rsi, ?rci, nofun⟩
  case rw => exact csr_results (mk := .csrrw) (k := .write) (by decide) rfl rfl rfl fun _ => rfl
  case rs => exact csr_results (mk := .csrrs) (k := .set) (by decide) rfl rfl (csrWrites_of_ne_write (by decide) f) fun _ => rfl
  case rc => exact csr_results (mk := .csrrc) (k := .clear) (by decide) rfl rfl (csrWrites_of_ne_write (by decide) f) fun _ => rfl
  case rwi => exact csr_results (mk := .csrrwi) (k := .write) (by decide) rfl rfl rfl fun _ => rfl
  case rsi => exact csr_results (mk := .csrrsi) (k := .set) (by decide) rfl rfl (csrWrites_of_ne_write (by decide) f) fun _ => rfl
  case rci => exact csr_results (mk := .csrrci) (k := .clear) (by decide) rfl rfl (csrWrites_of_ne_write (by decide) f) fun _ => rfl

end CsrAccess

/-- Settles O36: the statement is the table, row by row. -/
theorem csrAccessResults : Obligations.CsrAccessResults := fun rd num f s f3 i wr new hmem =>
  csrTable_results rd num f s (f3, i, wr, new) hmem

end Sys2Proof.Machine

/-! PROOFS. MRET and WFI (spec/47_zicsr_system.md R420, R421), and how the timer check ends a wait (spec/60_exceptions.md R501, R503). -/

namespace Sys2Proof.Machine

/-! ### MRET -/

/-- Settles O38: the return writes mstatus bit by bit as the rule says, and of extraflags priv alone. -/
theorem mretReturns : Obligations.MretReturns := by
  refine ⟨isWordOf_mret, fun s => ⟨returnFromTrap s, rfl, rfl, State.setPriv_priv s _, State.setPriv_waiting s _, returnFromTrap_resv s,
    ?mie, ?mpie, ?mpp, fun k hk h3 h7 h11 h12 => ?others, rfl⟩⟩
  case mie => exact getLsbD_mretStatus _ 3 (by omega)
  case mpie => exact getLsbD_mretStatus _ 7 (by omega)
  case mpp => exact extract_setField_same _ _ _ (by omega)
  case others =>
    refine (getLsbD_mretStatus _ k hk).trans ?_
    rw [if_neg h3, if_neg h7, if_neg (not_or.2 ⟨h11, h12⟩)]

/-! ### WFI -/

section Waiting

variable {s : State}

/-- Setting wfi (R43). -/
theorem setField_wfi (flags : Word) : setField flags 2 1#1 = flags ||| 4 := by
  apply BitVec.eq_of_getLsbD_eq
  intro k hk
  rw [getLsbD_setField _ _ _ _ hk, show (4 : Word) = BitVec.twoPow 32 2 from rfl, BitVec.getLsbD_or, BitVec.getLsbD_twoPow]
  by_cases h2 : k = 2
  · simp [h2]
  · rw [if_neg (by omega)]
    simp [Ne.symm h2]

/-- The timer check clears wfi iff the timer condition holds (R503), whatever mie and mstatus say. -/
theorem beginStep_waiting (s : State) :
    (beginStep s).waiting = (s.waiting && !timerCondition (advanceTimer (s.setTrap 0))) := by
  unfold State.waiting
  rw [beginStep_extraflags]
  cases timerCondition (advanceTimer (s.setTrap 0)) with
  | false => simp
  | true => exact (getLsbD_setField _ _ _ _ (by omega)).trans (by simp)

/-- The timer condition of a step with the default TIMER_CMP (R13, R502). -/
theorem timerCondition_advanceTimer_iff (hcmp : s.cfg.timerCmp = .unsigned64) :
    timerCondition (advanceTimer (s.setTrap 0)) = true ↔
      s.timecmp ≠ 0 ∧ (s.time + s.elapsed.zeroExtend 64).toNat ≥ s.timecmp.toNat := by
  have htime : (advanceTimer (s.setTrap 0)).time = s.time + s.elapsed.zeroExtend 64 := State.setTime_time (s.setTrap 0) _
  have htimecmp : (advanceTimer (s.setTrap 0)).timecmp = s.timecmp := rfl
  have hcfg : (advanceTimer (s.setTrap 0)).cfg.timerCmp = .unsigned64 := hcmp
  simp only [timerCondition, timerReached, htime, htimecmp, hcfg, Bool.and_eq_true, bne_iff_ne, decide_eq_true_iff, ge_iff_le]

/-- A hart that still waits after the timer check ends its step there (R501). -/
theorem step_of_waiting (h : (beginStep s).waiting = true) : step s = .next (beginStep s) := if_pos h

end Waiting

/-- Settles O39: WFI sets bit 2 of extraflags, and the timer condition alone decides whether a step clears it. -/
theorem wfiSetsWaiting : Obligations.WfiSetsWaiting := by
  refine ⟨isWordOf_wfi, fun s => ⟨advance (s.setWaiting true), rfl, setField_wfi s.extraflags, rfl⟩,
    fun s hwait hcmp => ⟨?_, step_of_waiting⟩⟩
  rw [beginStep_waiting, hwait, ← timerCondition_advanceTimer_iff hcmp]
  simp

end Sys2Proof.Machine

/-! PROOFS. Every instruction is one of the shared operations; what the operations do to RAM, to the trap signal, to priv and to wfi
(spec/10_state.md R41, R42, R60, spec/20_memory.md R90, spec/60_exceptions.md R527, R545). -/

namespace Sys2Proof.Machine

/-! ### The shapes of an instruction's meaning -/

/-- The shared operation that an instruction's meaning is, in a given state. -/
inductive Operation (i : Instr) (s : State) : Prop where
  | retire (rd : RegNum) (v : Word) (h : exec i s = retire rd v s)
  | branch (taken : Bool) (off : BitVec 13) (h : exec i s = branch taken off s)
  | jump (rd : RegNum) (link target : Word) (h : exec i s = .next ((s.setReg rd link).setPc target))
  | load (n : Nat) (ext : Nat → Word) (rd rs1 : RegNum) (imm : BitVec 12) (h : exec i s = load n ext rd rs1 imm s)
  | store (n : Nat) (rs2 rs1 : RegNum) (imm : BitVec 12) (h : exec i s = store n rs2 rs1 imm s)
  | loadReserved (rd rs1 : RegNum) (aq rl : Bool) (h : exec i s = execLrw rd rs1 aq rl s)
  | storeConditional (rd rs1 rs2 : RegNum) (aq rl : Bool) (h : exec i s = execScw rd rs1 rs2 aq rl s)
  | amo (op : Word → Word → Word) (rd rs1 rs2 : RegNum) (h : exec i s = amo op rd rs1 rs2 s)
  | csr (k : CsrKind) (rd : RegNum) (num : CsrNum) (field : BitVec 5) (src : Word) (h : exec i s = csrOp k rd num field src s)
  | trap (code : Word) (hnonzero : code ≠ 0) (hsync : code.getLsbD 31 = false) (h : exec i s = raiseTrap code s)
  | mret (hi : i = .mret) (h : exec i s = .next (returnFromTrap s))
  | wfi (hi : i = .wfi) (h : exec i s = .next (advance (s.setWaiting true)))

theorem operation_of_exec (i : Instr) (s : State) : Operation i s := by
  cases i with
  | lui | auipc | addi | slti | sltiu | xori | ori | andi | slli | srli | srai
  | add | sub | sll | slt | sltu | xor | srl | sra | or | and
  | mul | mulh | mulhsu | mulhu | div | divu | rem | remu => exact .retire _ _ rfl
  | jal | jalr => exact .jump _ _ _ rfl
  | beq | bne | blt | bge | bltu | bgeu => exact .branch _ _ rfl
  | fence => exact .branch false 0 rfl
  | lb | lh | lw | lbu | lhu => exact .load _ _ _ _ _ rfl
  | sb | sh | sw => exact .store _ _ _ _ rfl
  | lrw rd rs1 aq rl => exact .loadReserved rd rs1 aq rl rfl
  | scw rd rs1 rs2 aq rl => exact .storeConditional rd rs1 rs2 aq rl rfl
  | amoswapw | amoaddw | amoxorw | amoandw | amoorw | amominw | amomaxw | amominuw | amomaxuw =>
    apply Operation.amo
    dsimp only [exec, execAmoswapw, execAmoaddw, execAmoxorw, execAmoandw, execAmoorw, execAmominw, execAmomaxw, execAmominuw,
      execAmomaxuw]
  | csrrw | csrrs | csrrc | csrrwi | csrrsi | csrrci => exact .csr _ _ _ _ _ rfl
  | ecall =>
    obtain ⟨hnonzero, hsync, -⟩ := ecall_code s.priv
    exact .trap _ hnonzero hsync rfl
  | ebreak => exact .trap 4 (by decide) (by decide) rfl
  | mret => exact .mret rfl rfl
  | wfi => exact .wfi rfl rfl

/-! ### RAM and the trap signal -/

/-- RAM is in its canonical form and inside the DRAM range, and no trap signal is pending: the invariant without register x0. -/
def State.Settled (s : State) : Prop := s.mem.wf ∧ s.ramInRange ∧ s.trap = 0

section Settled

variable {s s' t : State}

theorem State.Settled.congr (h : s.Settled) (hmem : t.mem = s.mem) (hcfg : t.cfg = s.cfg) (htrap : t.trap = s.trap) : t.Settled := by
  unfold State.Settled State.ramInRange
  rw [hmem, hcfg, htrap]
  exact h

theorem State.Settled.advance (h : s.Settled) : (Machine.advance s).Settled := h

theorem State.Settled.setResv (h : s.Settled) (r : BitVec 29) : (s.setResv r).Settled := h

theorem State.Settled.setReg (h : s.Settled) (r : RegNum) (v : Word) : (s.setReg r v).Settled := h.congr (by simp) (by simp) (by simp)

theorem State.Settled.setCsr (h : s.Settled) (c : Csr) (v : Word) : (s.setCsr c v).Settled := by
  obtain ⟨-, -, -, htrap, hmem, -, -, -, -, hcfg⟩ := setCsr_frame s c v
  exact h.congr hmem hcfg htrap

theorem State.Settled.retire {rd : RegNum} {v : Word} (h : s.Settled) (hr : Machine.retire rd v s = .next t) : t.Settled := by
  cases hr
  exact (h.setReg rd v).advance

theorem busRead_settled {a : Word} {n v : Nat} (h : s.Settled) (hread : busRead s a n = .ok (v, s')) : s'.Settled := by
  rw [busRead_frame hread]
  exact h

theorem busWrite_settled {a : Word} {n v : Nat} (h : s.Settled) (hwrite : busWrite s a n v = .ok s') : s'.Settled := by
  obtain ⟨hwf, hrange, htrap⟩ := h
  obtain ⟨hwf', hrange'⟩ := busWrite_mem hwrite hwf hrange
  refine ⟨hwf', hrange', Eq.trans ?_ htrap⟩
  rw [busWrite_frame hwrite]

/-- Trap entry consumes the signal, whatever it was (R527). -/
theorem trapEntry_settled (hwf : s.mem.wf) (hrange : s.ramInRange) : (trapEntry s).Settled := by
  unfold trapEntry
  split
  · rename_i htrap
    exact ⟨hwf, hrange, htrap⟩
  · exact ⟨hwf, hrange, rfl⟩

theorem raiseTrap_settled {code : Word} (h : s.Settled) (ht : raiseTrap code s = .next t) : t.Settled := by
  obtain ⟨hwf, hrange, -⟩ := h
  cases ht
  exact trapEntry_settled hwf hrange

theorem enterInterrupt_settled (h : s.Settled) : (enterInterrupt s).Settled := by
  obtain ⟨hwf, hrange, -⟩ := h
  exact trapEntry_settled hwf hrange

theorem csrOp_settled {k : CsrKind} {rd : RegNum} {num : CsrNum} {field : BitVec 5} {src : Word} (h : s.Settled)
    (ht : csrOp k rd num field src s = .next t) : t.Settled := by
  obtain ⟨htrap, -⟩ | ⟨c, -, -, haccess⟩ := csrOp_cases k rd num field src s
  · exact raiseTrap_settled h (htrap.symm.trans ht)
  · refine State.Settled.retire ?_ (haccess.symm.trans ht)
    split
    · exact h.setCsr c _
    · exact h

/-- RAM is written over the bus alone, and whoever raises a trap signal also enters the trap. -/
theorem exec_settled {i : Instr} (h : s.Settled) (ht : exec i s = .next t) : t.Settled := by
  cases operation_of_exec i s with
  | retire rd v hop => exact h.retire (hop.symm.trans ht)
  | branch taken off hop =>
    rw [hop, branch_effect] at ht
    cases ht
    exact h
  | jump rd link target hop =>
    cases hop.symm.trans ht
    exact h.setReg rd link
  | load n ext rd rs1 imm hop =>
    obtain ⟨v, s', hread, rfl⟩ := load_next (hop.symm.trans ht)
    exact ((busRead_settled h hread).setReg rd _).advance
  | store n rs2 rs1 imm hop =>
    obtain ⟨s', hwrite, rfl⟩ := store_next (hop.symm.trans ht)
    exact (busWrite_settled h hwrite).advance
  | loadReserved rd rs1 aq rl hop =>
    obtain ⟨v, s', hread, rfl⟩ := execLrw_next (hop.symm.trans ht)
    exact (((busRead_settled h hread).setResv _).setReg rd _).advance
  | storeConditional rd rs1 rs2 aq rl hop =>
    obtain ⟨-, s', hwrite, rfl⟩ | ⟨-, rfl⟩ := execScw_next (hop.symm.trans ht)
    · exact (((busWrite_settled h hwrite).setResv _).setReg rd _).advance
    · exact ((h.setResv _).setReg rd _).advance
  | amo op rd rs1 rs2 hop =>
    obtain ⟨v, s', s'', hread, hwrite, rfl⟩ := amo_next (hop.symm.trans ht)
    exact ((busWrite_settled (busRead_settled h hread) hwrite).setReg rd _).advance
  | csr k rd num field src hop => exact csrOp_settled h (hop.symm.trans ht)
  | trap code _ _ hop => exact raiseTrap_settled h (hop.symm.trans ht)
  | mret _ hop =>
    cases hop.symm.trans ht
    exact h
  | wfi _ hop =>
    cases hop.symm.trans ht
    exact h

theorem State.Settled.clearX0 (h : s.Settled) : s.clearX0.Settled := h

theorem State.Settled.endStep (h : s.Settled) : (Machine.endStep s).Settled := h

theorem runWord_settled {w : Word} (h : s.Settled) (ht : runWord w s = .next t) : t.Settled := by
  obtain ⟨i, -, hexec⟩ | ⟨-, htrap⟩ := runWord_next ht
  · exact exec_settled h hexec
  · exact raiseTrap_settled h htrap

theorem beginStep_settled (h : s.Settled) : (beginStep s).Settled := by
  obtain ⟨hwf, hrange, htrap⟩ := h
  exact State.Settled.congr ⟨hwf, hrange, htrap⟩ (beginStep_mem s) (beginStep_cfg s) ((beginStep_trap s).trans htrap.symm)

theorem step_settled (h : s.Settled) (ht : step s = .next t) : t.Settled := by
  have hbegin := beginStep_settled h
  obtain ⟨-, rfl⟩ | ⟨-, -, rfl⟩ | ⟨-, -, w, s', u, hfetch, hrun, rfl⟩ := step_next ht
  · exact hbegin
  · exact (enterInterrupt_settled hbegin).endStep
  · obtain ⟨v, hread, -⟩ := fetch_ok hfetch
    exact (runWord_settled (busRead_settled hbegin hread).clearX0 hrun).endStep

end Settled

/-- Settles O56: a step writes RAM over the bus alone, consumes each trap signal it raises, and ends by forcing x0 unless it is idle. -/
theorem stepKeepsInv : Obligations.StepKeepsInv := by
  rintro s t ⟨hwf, hrange, htrap, hzero⟩ ht
  obtain ⟨hwf', hrange', htrap'⟩ := step_settled ⟨hwf, hrange, htrap⟩ ht
  exact ⟨hwf', hrange', htrap', step_regs_zero hzero ht⟩

/-! ### Counters, priv and wfi -/

/-- Two states with the same fixed part, field by field. -/
theorem State.fixedPart_eq_iff {s t : State} :
    t.fixedPart = s.fixedPart ↔
      t.cfg = s.cfg ∧ t.time = s.time ∧ t.cycle = s.cycle ∧ t.elapsedIn = s.elapsedIn ∧ t.elapsedRest = s.elapsedRest := by
  simp only [State.fixedPart, Prod.mk.injEq]

/-- Settles O53: time, cycle and the ELAPSED inputs are in the part of the state that no instruction writes. -/
theorem instructionsKeepCounters : Obligations.InstructionsKeepCounters := by
  intro i s t h
  obtain ⟨-, hkept⟩ := State.fixedPart_eq_iff.1 (exec_fixedPart h)
  exact hkept

section PrivilegeAndWaiting

variable {s s' t : State}

/-- `t` has the priv and wfi of `s`. -/
def SamePrivWaiting (s t : State) : Prop := t.priv = s.priv ∧ t.waiting = s.waiting

theorem samePrivWaiting_of_extraflags (h : t.extraflags = s.extraflags) : SamePrivWaiting s t := by
  simp [SamePrivWaiting, State.priv, State.waiting, h]

/-- LR.W and SC.W write the reservation field alone. -/
theorem samePrivWaiting_of_resv (r : BitVec 29) (hs' : s'.extraflags = s.extraflags) (h : t.extraflags = (s'.setResv r).extraflags) :
    SamePrivWaiting s t := by
  obtain ⟨hpriv, hwaiting⟩ := samePrivWaiting_of_extraflags h
  obtain ⟨hpriv', hwaiting'⟩ := samePrivWaiting_of_extraflags hs'
  exact ⟨(hpriv.trans (State.setResv_priv s' r)).trans hpriv', (hwaiting.trans (State.setResv_waiting s' r)).trans hwaiting'⟩

/-- What an instruction does to priv and wfi (R41, R42, R545): nothing, or what its trap, MRET or WFI does. -/
theorem exec_priv_waiting_cases {i : Instr} (ht : exec i s = .next t) :
    SamePrivWaiting s t ∨ (∃ cause, TrapsWith cause s t) ∨ (i = .mret ∧ t = returnFromTrap s) ∨
      (i = .wfi ∧ t = advance (s.setWaiting true)) := by
  cases operation_of_exec i s with
  | retire rd v hop => exact .inl (samePrivWaiting_of_extraflags (retire_extraflags (hop.symm.trans ht)))
  | branch taken off hop => exact .inl (samePrivWaiting_of_extraflags (branch_extraflags (hop.symm.trans ht)))
  | jump rd link target hop =>
    cases hop.symm.trans ht
    exact .inl (samePrivWaiting_of_extraflags (by simp))
  | load n ext rd rs1 imm hop => exact .inl (samePrivWaiting_of_extraflags (load_extraflags (hop.symm.trans ht)))
  | store n rs2 rs1 imm hop => exact .inl (samePrivWaiting_of_extraflags (store_extraflags (hop.symm.trans ht)))
  | loadReserved rd rs1 aq rl hop =>
    obtain ⟨v, s', hread, rfl⟩ := execLrw_next (hop.symm.trans ht)
    exact .inl (samePrivWaiting_of_resv (reservationOf (s.reg rs1)) (busRead_extraflags hread) (by simp))
  | storeConditional rd rs1 rs2 aq rl hop =>
    obtain ⟨-, s', hwrite, rfl⟩ | ⟨-, rfl⟩ := execScw_next (hop.symm.trans ht)
    · exact .inl (samePrivWaiting_of_resv 0 (busWrite_extraflags hwrite) (by simp))
    · exact .inl (samePrivWaiting_of_resv 0 rfl (by simp))
  | amo op rd rs1 rs2 hop => exact .inl (samePrivWaiting_of_extraflags (amo_extraflags (hop.symm.trans ht)))
  | csr k rd num field src hop =>
    obtain ⟨htrap, -⟩ | ⟨c, -, -, haccess⟩ := csrOp_cases k rd num field src s
    · obtain ⟨u, hu, htraps⟩ := illegalInstruction_effect s
      cases (hu.symm.trans (htrap.symm.trans (hop.symm.trans ht)))
      exact .inr (.inl ⟨_, htraps⟩)
    · obtain ⟨-, -, hflags, -⟩ := setCsr_frame s c (csrNew k (s.csr c) src)
      refine .inl (samePrivWaiting_of_extraflags ((retire_extraflags (haccess.symm.trans (hop.symm.trans ht))).trans ?_))
      split
      · exact hflags
      · rfl
  | trap code hnonzero hsync hop =>
    obtain ⟨u, hu, htraps⟩ := raiseTrap_effect code hnonzero hsync s
    cases hu.symm.trans (hop.symm.trans ht)
    exact .inr (.inl ⟨_, htraps⟩)
  | mret hi hop =>
    cases hop.symm.trans ht
    exact .inr (.inr (.inl ⟨hi, rfl⟩))
  | wfi hi hop =>
    cases hop.symm.trans ht
    exact .inr (.inr (.inr ⟨hi, rfl⟩))

end PrivilegeAndWaiting

/-- Settles O54: a trap sets priv and saves the old one in MPP, MRET takes it from there, WFI alone sets wfi, and nothing else writes
either. -/
theorem privilegeChangesOnlyByTrapOrMret : Obligations.PrivilegeChangesOnlyByTrapOrMret := by
  intro i s t ht
  obtain ⟨hpriv, hwaiting⟩ | ⟨cause, -, hepc, -, hpc, -, -, hmpp, -, hpriv, hwaiting, -⟩ | ⟨hi, rfl⟩ | ⟨hi, rfl⟩ :=
    exec_priv_waiting_cases ht
  · exact ⟨.inl hpriv, .inl hwaiting⟩
  · exact ⟨.inr (.inl ⟨hpriv, hpc, hepc, hmpp⟩), .inl hwaiting⟩
  · exact ⟨.inr (.inr ⟨hi, State.setPriv_priv s _⟩), .inl (State.setPriv_waiting s _)⟩
  · exact ⟨.inl (State.setWaiting_priv s true), .inr ⟨hi, State.setWaiting_waiting s true⟩⟩

end Sys2Proof.Machine

/-! PROOFS. Every instruction's word decodes to it (spec/30_encoding.md R133 to R141, R150, R153): the lemmas on the words of each format,
put together for all 67 constructors. -/

namespace Sys2Proof.Machine

theorem isWordOf_encode (i : Instr) (hwf : i.wellFormed = true) : IsWordOf (extOf i) (encode i) i := by
  cases i with
  | lui rd imm => exact isWordOf_lui rd imm
  | auipc rd imm => exact isWordOf_auipc rd imm
  | jal rd off => exact isWordOf_jal rd (by simpa [Instr.wellFormed, evenOffset] using hwf)
  | jalr rd rs1 imm => exact isWordOf_jalr rd rs1 imm
  | beq rs1 rs2 off | bne rs1 rs2 off | blt rs1 rs2 off | bge rs1 rs2 off | bltu rs1 rs2 off | bgeu rs1 rs2 off =>
    have heven : off.getLsbD 0 = false := by simpa [Instr.wellFormed, evenOffset] using hwf
    exact isWordOf_branch (opcodeOf_encodeB ..) (by simp [encode, readBranch, immBOf_encodeB _ _ _ _ heven])
  | lb | lh | lw | lbu | lhu => exact isWordOf_load (opcodeOf_encodeI ..) (by simp [encode, readLoad])
  | sb | sh | sw => exact isWordOf_store (opcodeOf_encodeS ..) (by simp [encode, readStore])
  | addi | slti | sltiu | xori | ori | andi =>
    exact isWordOf_imm (opcodeOf_encodeI ..) (by simp [encode]) (by simp [encode, readImm])
  | slli | srli | srai => exact isWordOf_shiftImm (opcodeOf_encodeR ..) (by simp [encode]) (by simp [encode, readShiftImm])
  | add | sub | sll | slt | sltu | xor | srl | sra | or | and =>
    exact isWordOf_op (opcodeOf_encodeR ..) (by simp [encode]) (by simp [encode, readOp])
  | fence fm pred succ rs1 rd => exact isWordOf_fence fm pred succ rs1 rd
  | ecall => exact isWordOf_ecall
  | ebreak => exact isWordOf_ebreak
  | mul | mulh | mulhsu | mulhu | div | divu | rem | remu => exact isWordOf_mulDiv rfl
  | lrw =>
    exact isWordOf_atomic (v := ⟨⟨0xF9F0707F, 0x1000202F⟩, fun w => some (.lrw (rdOf w) (rs1Of w) (aqOf w) (rlOf w))⟩) rfl
      (by simp) fun _ => rfl
  | scw | amoswapw | amoaddw | amoxorw | amoandw | amoorw | amominw | amomaxw | amominuw | amomaxuw =>
    exact isWordOf_atomic rfl (readAmo_encodeA _) nofun
  | csrrw | csrrs | csrrc | csrrwi | csrrsi | csrrci => exact isWordOf_csr (by decide) rfl
  | mret => exact isWordOf_mret
  | wfi => exact isWordOf_wfi

/-- Settles O1: the word is the instruction's wherever its extension is enabled. -/
theorem encodedInstructionDecodes : Obligations.EncodedInstructionDecodes := fun exts i hwf hext => isWordOf_encode i hwf exts hext

/-- A word that is the encoder's for an instruction decodes to it in the default configuration (D31). -/
theorem dispatch_defaultExtensions {w : Word} (i : Instr) (hword : encode i = w) (hwf : i.wellFormed = true)
    (hext : extOf i ∈ defaultExtensions) : dispatch defaultExtensions w = .ok i := by
  rw [← hword]
  exact encodedInstructionDecodes defaultExtensions i hwf hext

/-- Settles O5: each word is the encoder's for its instruction. -/
theorem writtenWordsDecode : Obligations.WrittenWordsDecode := by
  refine ⟨?addi, ?slli, ?beq, ?sw, ?jal, ?mulhsu, ?amoaddw, ?csrrwi⟩
  case addi | slli | beq | sw | jal | mulhsu | amoaddw | csrrwi =>
    exact dispatch_defaultExtensions _ (by decide) (by decide) (by decide)

end Sys2Proof.Machine

/-! PROOFS. Every word is the encoder's word of its own fields, in each format (spec/30_encoding.md R133 to R141). -/

namespace Sys2Proof

section WordOfItsFields

variable {w : Word} {f7 : BitVec 7} {f3 : BitVec 3} {op : BitVec 7}

theorem encodeR_of_fields (h7 : funct7Of w = f7) (h3 : funct3Of w = f3) (hop : opcodeOf w = op) :
    encodeR f7 (rs2Of w) (rs1Of w) f3 (rdOf w) op = w := by
  subst h7 h3 hop
  exact encodeR_fields w

/-! In the formats below each bit of the word is the bit of the immediate, or of the field, that the format puts there. -/

theorem encodeI_of_fields (h3 : funct3Of w = f3) (hop : opcodeOf w = op) : encodeI (immIOf w) (rs1Of w) f3 (rdOf w) op = w := by
  subst h3 hop
  apply BitVec.eq_of_getLsbD_eq
  intro k hk
  simp only [encodeI, immIOf, rs1Of, funct3Of, rdOf, opcodeOf, bits, BitVec.getLsbD_append, BitVec.getLsbD_extractLsb']
  grind

theorem encodeS_of_fields (h3 : funct3Of w = f3) (hop : opcodeOf w = op) : encodeS (immSOf w) (rs2Of w) (rs1Of w) f3 op = w := by
  subst h3 hop
  apply BitVec.eq_of_getLsbD_eq
  intro k hk
  simp only [encodeS, immSOf, rs2Of, rs1Of, funct3Of, opcodeOf, bits, BitVec.getLsbD_append, BitVec.getLsbD_extractLsb']
  grind

theorem encodeB_of_fields (h3 : funct3Of w = f3) (hop : opcodeOf w = op) : encodeB (immBOf w) (rs2Of w) (rs1Of w) f3 op = w := by
  subst h3 hop
  apply BitVec.eq_of_getLsbD_eq
  intro k hk
  simp only [encodeB, immBOf, rs2Of, rs1Of, funct3Of, opcodeOf, bits, BitVec.getLsbD_append, BitVec.getLsbD_extractLsb']
  grind

theorem encodeU_of_fields (hop : opcodeOf w = op) : encodeU (immUOf w) (rdOf w) op = w := by
  subst hop
  apply BitVec.eq_of_getLsbD_eq
  intro k hk
  simp only [encodeU, immUOf, rdOf, opcodeOf, bits, BitVec.getLsbD_append, BitVec.getLsbD_extractLsb']
  grind

theorem encodeJ_of_fields (hop : opcodeOf w = op) : encodeJ (immJOf w) (rdOf w) op = w := by
  subst hop
  apply BitVec.eq_of_getLsbD_eq
  intro k hk
  simp only [encodeJ, immJOf, rdOf, opcodeOf, bits, BitVec.getLsbD_append, BitVec.getLsbD_extractLsb']
  grind

/-- Two adjacent fields of a word are one field. -/
theorem bits_append_bits (w : Word) (lo len m : Nat) : bits w (lo + len) m ++ bits w lo len = bits w lo (m + len) :=
  extract_append_extract w lo len m

/-- funct7 of an atomic is funct5, aq and rl (R141). -/
theorem funct7Of_eq_funct5_aq_rl (w : Word) : bits w 27 5 ++ BitVec.ofBool (aqOf w) ++ BitVec.ofBool (rlOf w) = funct7Of w := by
  apply BitVec.eq_of_getLsbD_eq
  intro k hk
  simp only [aqOf, rlOf, funct7Of, bits, BitVec.getLsbD_append, BitVec.getLsbD_extractLsb', BitVec.getLsbD_ofBool]
  grind

theorem encodeA_of_fields {f5 : BitVec 5} (h5 : bits w 27 5 = f5) (h3 : funct3Of w = 0b010#3) (hop : opcodeOf w = 0b0101111#7) :
    encodeA f5 (aqOf w) (rlOf w) (rs2Of w) (rs1Of w) (rdOf w) = w := by
  subst h5
  exact encodeR_of_fields (funct7Of_eq_funct5_aq_rl w).symm h3 hop

/-- FENCE's three fields are the upper 12 bits (R141, R290). -/
theorem encodeI_of_fence_fields (h3 : funct3Of w = f3) (hop : opcodeOf w = op) :
    encodeI (bits w 28 4 ++ bits w 24 4 ++ bits w 20 4) (rs1Of w) f3 (rdOf w) op = w := by
  rw [bits_append_bits w 24 4 4, bits_append_bits w 20 4 8]
  exact encodeI_of_fields h3 hop

theorem evenOffset_immBOf (w : Word) : evenOffset (immBOf w) = true := by
  simp only [evenOffset, immBOf, BitVec.getLsbD_append]
  rfl

theorem evenOffset_immJOf (w : Word) : evenOffset (immJOf w) = true := by
  simp only [evenOffset, immJOf, BitVec.getLsbD_append]
  rfl

end WordOfItsFields

end Sys2Proof

/-! PROOFS. A variant reads from a word that its template matches only the instruction whose word it is (spec/30_encoding.md R145, R153,
R154): first what each template fixes of the word, then the catch-all variants, then the four lists. -/

namespace Sys2Proof.Machine

section ReadFrom

variable {e : Ext} {w : Word} {i : Instr} {value : Word}

/-! ### What a template fixes -/

theorem opcodeOf_of_mask {t : Template} (hmask : opcodeOf t.mask = BitVec.allOnes 7) (hm : t.matches w = true) :
    opcodeOf w = opcodeOf t.value := by
  obtain ⟨-, -, -, -, -, hop⟩ := (and_eq_iff ..).1 (Template.matches_iff.1 hm)
  exact (Laws.and_fixed _ hmask).symm.trans hop

/-- A template that fixes the opcode, funct3 and funct7. -/
theorem fields_of_matches_funct7 (hm : Template.matches ⟨0xFE00707F, value⟩ w = true) :
    funct7Of w = funct7Of value ∧ funct3Of w = funct3Of value ∧ opcodeOf w = opcodeOf value := by
  obtain ⟨h7, -, -, h3, -, hop⟩ := (and_eq_iff ..).1 (Template.matches_iff.1 hm)
  exact ⟨(Laws.and_fixed (m := funct7Of 0xFE00707F#32) _ rfl).symm.trans h7,
    (Laws.and_fixed (m := funct3Of 0xFE00707F#32) _ rfl).symm.trans h3,
    (Laws.and_fixed (m := opcodeOf 0xFE00707F#32) _ rfl).symm.trans hop⟩

/-- OP's template leaves bit 30 open: funct7 is 0000000 or 0100000 (R220). -/
theorem funct7Of_of_matches_op (hm : Template.matches ⟨0xBE00007F, 0x00000033⟩ w = true) :
    funct7Of w = 0b0000000#7 ∨ funct7Of w = 0b0100000#7 := by
  obtain ⟨h7, -⟩ := (and_eq_iff ..).1 (Template.matches_iff.1 hm)
  have hcases : ∀ f : BitVec 7, f &&& 0b1011111#7 = 0b0000000#7 → f = 0b0000000#7 ∨ f = 0b0100000#7 := by decide
  exact hcases _ h7

/-- SHIFTI's template leaves bit 14 open: funct3 is 001 or 101 (R215). -/
theorem funct3Of_of_matches_shiftImm (hm : Template.matches ⟨0x0000307F, 0x00001013⟩ w = true) :
    funct3Of w = 0b001#3 ∨ funct3Of w = 0b101#3 := by
  have hcases : ∀ f : BitVec 3, f &&& 0b011#3 = 0b001#3 → f = 0b001#3 ∨ f = 0b101#3 := by decide
  exact hcases _ ((matches_shiftImm_iff (opcodeOf_of_mask rfl hm)).1 hm)

/-! ### The catch-all variants -/

/-- `w` is the word of `i`, an instruction of extension `e`. -/
def ReadFrom (e : Ext) (w : Word) (i : Instr) : Prop := encode i = w ∧ i.wellFormed = true ∧ extOf i = e

theorem readFrom_of_readBranch (hop : opcodeOf w = 0b1100011#7) (h : readBranch w = some i) : ReadFrom .i w i := by
  unfold readBranch at h
  split at h
  all_goals cases h
  all_goals exact ⟨encodeB_of_fields (BitVec.eq_of_toNat_eq ‹_›) hop, evenOffset_immBOf w, rfl⟩

theorem readFrom_of_readLoad (hop : opcodeOf w = 0b0000011#7) (h : readLoad w = some i) : ReadFrom .i w i := by
  unfold readLoad at h
  split at h
  all_goals cases h
  all_goals exact ⟨encodeI_of_fields (BitVec.eq_of_toNat_eq ‹_›) hop, rfl, rfl⟩

theorem readFrom_of_readStore (hop : opcodeOf w = 0b0100011#7) (h : readStore w = some i) : ReadFrom .i w i := by
  unfold readStore at h
  split at h
  all_goals cases h
  all_goals exact ⟨encodeS_of_fields (BitVec.eq_of_toNat_eq ‹_›) hop, rfl, rfl⟩

theorem readFrom_of_readImm (hop : opcodeOf w = 0b0010011#7) (h : readImm w = some i) : ReadFrom .i w i := by
  unfold readImm at h
  split at h
  all_goals cases h
  all_goals exact ⟨encodeI_of_fields (BitVec.eq_of_toNat_eq ‹_›) hop, rfl, rfl⟩

theorem readFrom_of_readShiftImm (hm : Template.matches ⟨0x0000307F, 0x00001013⟩ w = true) (h : readShiftImm w = some i) :
    ReadFrom .i w i := by
  have hop : opcodeOf w = 0b0010011#7 := opcodeOf_of_mask rfl hm
  unfold readShiftImm at h
  obtain h3 | h3 := funct3Of_of_matches_shiftImm hm
  · rw [if_pos h3] at h
    split at h
    all_goals cases h
    exact ⟨encodeR_of_fields ‹_› h3 hop, rfl, rfl⟩
  · rw [if_neg (by rw [h3]; decide)] at h
    repeat' split at h
    all_goals cases h
    all_goals exact ⟨encodeR_of_fields ‹_› h3 hop, rfl, rfl⟩

theorem readFrom_of_readOp (hm : Template.matches ⟨0xBE00007F, 0x00000033⟩ w = true) (h : readOp w = some i) : ReadFrom .i w i := by
  have hop : opcodeOf w = 0b0110011#7 := opcodeOf_of_mask rfl hm
  unfold readOp at h
  obtain h7 | h7 := funct7Of_of_matches_op hm
  · rw [if_pos h7] at h
    split at h
    all_goals cases h
    all_goals exact ⟨encodeR_of_fields h7 (BitVec.eq_of_toNat_eq ‹_›) hop, rfl, rfl⟩
  · rw [if_neg (by rw [h7]; decide)] at h
    split at h
    all_goals cases h
    all_goals exact ⟨encodeR_of_fields h7 (BitVec.eq_of_toNat_eq ‹_›) hop, rfl, rfl⟩

/-! ### The variants of each extension -/

/-- What the variant reads from a word that its template matches is the instruction of extension `e` with that word. -/
def ReadsItsWords (e : Ext) (v : Variant) : Prop := ∀ w i, v.template.matches w = true → v.read w = some i → ReadFrom e w i

theorem readsItsWords_exact (hword : encode i = value) (hwf : i.wellFormed = true) (hext : extOf i = e) :
    ReadsItsWords e ⟨⟨0xFFFFFFFF, value⟩, fun _ => some i⟩ := by
  rintro w _ hm ⟨⟩
  exact ⟨hword.trans (eq_value_of_matches_exact rfl hm).symm, hwf, hext⟩

theorem readsItsWords_of_mem_variantsI : ∀ v ∈ variantsI, ReadsItsWords .i v := by
  simp only [variantsI, List.forall_mem_cons]
  refine ⟨?lui, ?auipc, ?jal, ?jalr, ?branch, ?load, ?store, ?shiftImm, ?imm, ?op, ?fence, ?ecall, ?ebreak, nofun⟩
  case lui | auipc =>
    rintro w _ hm ⟨⟩
    exact ⟨encodeU_of_fields (opcodeOf_of_mask rfl hm), rfl, rfl⟩
  case jal =>
    rintro w _ hm ⟨⟩
    exact ⟨encodeJ_of_fields (opcodeOf_of_mask rfl hm), evenOffset_immJOf w, rfl⟩
  case jalr =>
    rintro w _ hm ⟨⟩
    exact ⟨encodeI_of_fields (funct3Of_of_matches hm) (opcodeOf_of_mask rfl hm), rfl, rfl⟩
  case branch => exact fun w i hm => readFrom_of_readBranch (opcodeOf_of_mask rfl hm)
  case load => exact fun w i hm => readFrom_of_readLoad (opcodeOf_of_mask rfl hm)
  case store => exact fun w i hm => readFrom_of_readStore (opcodeOf_of_mask rfl hm)
  case shiftImm => exact fun w i => readFrom_of_readShiftImm
  case imm => exact fun w i hm => readFrom_of_readImm (opcodeOf_of_mask rfl hm)
  case op => exact fun w i => readFrom_of_readOp
  case fence =>
    rintro w _ hm ⟨⟩
    exact ⟨encodeI_of_fence_fields (funct3Of_of_matches hm) (opcodeOf_of_mask rfl hm), rfl, rfl⟩
  case ecall | ebreak => exact readsItsWords_exact rfl rfl rfl

theorem readsItsWords_readR {mk : RegNum → RegNum → RegNum → Instr}
    (hmk : ∀ rd rs1 rs2, encode (mk rd rs1 rs2) = encodeR (funct7Of value) rs2 rs1 (funct3Of value) rd (opcodeOf value) ∧
      (mk rd rs1 rs2).wellFormed = true ∧ extOf (mk rd rs1 rs2) = e) : ReadsItsWords e ⟨⟨0xFE00707F, value⟩, readR mk⟩ := by
  rintro w _ hm ⟨⟩
  obtain ⟨h7, h3, hop⟩ := fields_of_matches_funct7 hm
  obtain ⟨hword, hwf, hext⟩ := hmk (rdOf w) (rs1Of w) (rs2Of w)
  exact ⟨hword.trans (encodeR_of_fields h7 h3 hop), hwf, hext⟩

theorem readsItsWords_of_mem_variantsM : ∀ v ∈ variantsM, ReadsItsWords .m v := by
  simp only [variantsM, List.forall_mem_cons]
  refine ⟨?mul, ?mulh, ?mulhsu, ?mulhu, ?div, ?divu, ?rem, ?remu, nofun⟩
  case mul | mulh | mulhsu | mulhu | div | divu | rem | remu => exact readsItsWords_readR fun _ _ _ => ⟨rfl, rfl, rfl⟩

/-- An atomic's variant reads every operand; LR.W's has no rs2, which its template fixes as 0. -/
theorem readFrom_of_mem_variantsA : ∀ v ∈ variantsA, ∀ w i, opcodeOf w = 0b0101111#7 → funct3Of w = 0b010#3 →
    bits w 27 5 = bits v.template.value 27 5 → (bits w 27 5 = 0b00010#5 → rs2Of w = 0) → v.read w = some i → ReadFrom .a w i := by
  simp only [variantsA, List.forall_mem_cons]
  refine ⟨?lrw, ?scw, ?swap, ?add, ?xor, ?and, ?or, ?min, ?max, ?minu, ?maxu, nofun⟩
  case lrw =>
    rintro w _ hop h3 h5 h2 ⟨⟩
    refine ⟨?_, rfl, rfl⟩
    have hword := encodeA_of_fields h5 h3 hop
    rwa [h2 h5] at hword
  case scw | swap | add | xor | and | or | min | max | minu | maxu =>
    rintro w _ hop h3 h5 - ⟨⟩
    exact ⟨encodeA_of_fields h5 h3 hop, rfl, rfl⟩

theorem readsItsWords_of_mem_variantsA : ∀ v ∈ variantsA, ReadsItsWords .a v := by
  intro v hv w i hm
  have hfixed : ∀ v ∈ variantsA, opcodeOf v.template.mask = BitVec.allOnes 7 ∧ opcodeOf v.template.value = 0b0101111#7 := by decide
  obtain ⟨hmask, hvalue⟩ := hfixed v hv
  obtain ⟨h3, h5, hlr⟩ := fields_of_matches_variantsA hv hm
  exact readFrom_of_mem_variantsA v hv w i ((opcodeOf_of_mask hmask hm).trans hvalue) h3 h5 hlr

theorem readsItsWords_readCsrOperands {mk : RegNum → CsrNum → BitVec 5 → Instr}
    (hmk : ∀ rd num f, encode (mk rd num f) = encodeI num f (funct3Of value) rd (opcodeOf value) ∧
      (mk rd num f).wellFormed = true ∧ extOf (mk rd num f) = e) : ReadsItsWords e ⟨⟨0x0000707F, value⟩, readCsrOperands mk⟩ := by
  rintro w _ hm ⟨⟩
  obtain ⟨hword, hwf, hext⟩ := hmk (rdOf w) (csrOf w) (rs1Of w)
  have hop : opcodeOf w = opcodeOf value :=
    opcodeOf_of_mask (t := ⟨0x0000707F, value⟩) (show opcodeOf 0x0000707F#32 = BitVec.allOnes 7 from rfl) hm
  exact ⟨hword.trans (encodeI_of_fields (funct3Of_of_matches hm) hop), hwf, hext⟩

theorem readsItsWords_of_mem_variantsZ : ∀ v ∈ variantsZ, ReadsItsWords .z v := by
  simp only [variantsZ, List.forall_mem_cons]
  refine ⟨?rw, ?rs, ?rc, ?rwi, ?rsi, ?rci, ?mret, ?wfi, nofun⟩
  case rw | rs | rc | rwi | rsi | rci => exact readsItsWords_readCsrOperands fun _ _ _ => ⟨rfl, rfl, rfl⟩
  case mret | wfi => exact readsItsWords_exact rfl rfl rfl

theorem readsItsWords_of_mem_variantsOf {v : Variant} (hv : v ∈ variantsOf e) : ReadsItsWords e v := by
  cases e with
  | i => exact readsItsWords_of_mem_variantsI v hv
  | m => exact readsItsWords_of_mem_variantsM v hv
  | a => exact readsItsWords_of_mem_variantsA v hv
  | z => exact readsItsWords_of_mem_variantsZ v hv
  | unknown => cases hv

end ReadFrom

/-- Settles O2: the variant that decides the word reads only an instruction with that word. -/
theorem decodedWordIsEncoding : Obligations.DecodedWordIsEncoding := by
  intro exts w i h
  obtain ⟨-, hunmatched⟩ | ⟨e, he, v, hv, hm, ⟨-, hillegal⟩ | ⟨j, hread, hok⟩⟩ := dispatch_cases exts w
  · simp [hunmatched] at h
  · simp [hillegal] at h
  · obtain rfl : j = i := by simpa [hok] using h
    obtain ⟨hword, hwf, rfl⟩ := readsItsWords_of_mem_variantsOf hv w j hm hread
    exact ⟨hword, hwf, he⟩

end Sys2Proof.Machine

/-! PROOFS. The extension lists (spec/30_encoding.md R150 to R152, R157): only which extensions are enabled matters. -/

namespace Sys2Proof.Machine

section ExtensionLists

variable {e : Ext} {v : Variant} {w : Word} {exts : List Ext}

/-- The search through the enabled extensions ends at a variant iff the search through one of them does (R157). -/
theorem find?_enabled_iff :
    (exts.flatMap variantsOf).find? (·.template.matches w) = some v ↔
      ∃ e ∈ exts, (variantsOf e).find? (·.template.matches w) = some v := by
  refine ⟨fun hfind => ?_, fun ⟨e, he, hfind⟩ => find?_enabled he hfind⟩
  rw [List.find?_flatMap] at hfind
  obtain ⟨e, he, hfind⟩ := List.exists_of_findSome?_eq_some hfind
  exact ⟨e, he, hfind⟩

theorem variantsOf_ne_nil_of_find? (hfind : (variantsOf e).find? (·.template.matches w) = some v) : variantsOf e ≠ [] :=
  List.ne_nil_of_mem (List.mem_of_find?_eq_some hfind)

/-- Two extension lists with the same known extensions dispatch alike. -/
theorem dispatch_congr {exts' : List Ext} (h : ∀ e, variantsOf e ≠ [] → (e ∈ exts ↔ e ∈ exts')) :
    dispatch exts w = dispatch exts' w := by
  have hfind : (exts.flatMap variantsOf).find? (·.template.matches w) = (exts'.flatMap variantsOf).find? (·.template.matches w) := by
    ext v
    rw [find?_enabled_iff, find?_enabled_iff]
    refine exists_congr fun e => and_congr_left fun hv => ?_
    exact h e (variantsOf_ne_nil_of_find? hv)
  simp only [dispatch, hfind]

theorem dispatch_of_disabled (hv : v ∈ variantsOf e) (hm : v.template.matches w = true) (he : e ∉ exts) :
    dispatch exts w = .error .unmatched := by
  obtain ⟨-, hunmatched⟩ | ⟨e', he', v', hv', hm', -⟩ := dispatch_cases exts w
  · exact hunmatched
  · exact absurd (ext_eq_of_matches hv' hv hm' hm ▸ he') he

end ExtensionLists

/-- Settles O3: the fixed bits of templates of different extensions conflict, so the search ends in the list of the word's own extension. -/
theorem extensionOrderIrrelevant : Obligations.ExtensionOrderIrrelevant :=
  ⟨fun _ _ _ _ _ => ext_eq_of_matches, fun _ _ _ => dispatch_congr, fun _ _ _ _ => dispatch_of_disabled⟩

end Sys2Proof.Machine

/-! PROOFS. The illegal sub-opcodes (spec/30_encoding.md R154, R160 class 2): what a catch-all variant that does not know its word says of
the word's selector, and that the other variants know every word they match. -/

namespace Sys2Proof.Machine

section IllegalSelectors

variable {e : Ext} {v : Variant} {w : Word} {exts : List Ext}

theorem selector_cases (f3 : BitVec 3) : f3 = 0 ∨ f3 = 1 ∨ f3 = 2 ∨ f3 = 3 ∨ f3 = 4 ∨ f3 = 5 ∨ f3 = 6 ∨ f3 = 7 := by
  decide +revert

theorem funct3Of_of_readBranch_eq_none (h : readBranch w = none) : funct3Of w = 2 ∨ funct3Of w = 3 := by
  unfold readBranch at h
  obtain h3 | h3 | h3 | h3 | h3 | h3 | h3 | h3 := selector_cases (funct3Of w) <;> simp [h3] at h ⊢

theorem funct3Of_of_readLoad_eq_none (h : readLoad w = none) : funct3Of w = 3 ∨ funct3Of w = 6 ∨ funct3Of w = 7 := by
  unfold readLoad at h
  obtain h3 | h3 | h3 | h3 | h3 | h3 | h3 | h3 := selector_cases (funct3Of w) <;> simp [h3] at h ⊢

theorem funct3Of_of_readStore_eq_none (h : readStore w = none) : 3 ≤ (funct3Of w).toNat := by
  unfold readStore at h
  obtain h3 | h3 | h3 | h3 | h3 | h3 | h3 | h3 := selector_cases (funct3Of w) <;> simp [h3] at h ⊢

theorem funct3Of_of_readImm_eq_none (h : readImm w = none) : funct3Of w = 1 ∨ funct3Of w = 5 := by
  unfold readImm at h
  obtain h3 | h3 | h3 | h3 | h3 | h3 | h3 | h3 := selector_cases (funct3Of w) <;> simp [h3] at h ⊢

theorem selector_of_readShiftImm_eq_none (h3 : funct3Of w = 1 ∨ funct3Of w = 5) (h : readShiftImm w = none) :
    (funct3Of w = 1 ∧ funct7Of w ≠ 0) ∨ (funct3Of w = 5 ∧ funct7Of w ≠ 0 ∧ funct7Of w ≠ 0b0100000#7) := by
  unfold readShiftImm at h
  obtain h3 | h3 := h3
  · refine .inl ⟨h3, fun h7 => ?_⟩
    simp [h3, h7] at h
  · refine .inr ⟨h3, fun h7 => ?_, fun h7 => ?_⟩
    · simp [h3, h7] at h
    · simp [h3, h7] at h

theorem selector_of_readOp_eq_none (h7 : funct7Of w = 0b0000000#7 ∨ funct7Of w = 0b0100000#7) (h : readOp w = none) :
    funct7Of w = 0b0100000#7 ∧ funct3Of w ≠ 0 ∧ funct3Of w ≠ 5 := by
  unfold readOp at h
  obtain h7 | h7 := h7
  · rw [if_pos h7] at h
    obtain h3 | h3 | h3 | h3 | h3 | h3 | h3 | h3 := selector_cases (funct3Of w) <;> simp [h3] at h
  · refine ⟨h7, fun h3 => ?_, fun h3 => ?_⟩
    · simp [h3, h7] at h
    · simp [h3, h7] at h

/-- IMM knows every selector that SHIFTI before it leaves (R205). -/
theorem illegalSelector_of_imm_opcode (hi : .i ∈ exts) (h : dispatch exts w = .error .illegalSubOpcode) (hop : opcodeOf w = 0b0010011#7)
    (h3 : funct3Of w = 1 ∨ funct3Of w = 5) : IllegalSelector w := by
  cases hread : readShiftImm w with
  | none => exact .inr (.inr (.inr (.inl ⟨hop, selector_of_readShiftImm_eq_none h3 hread⟩)))
  | some i =>
    have hlow : funct3Of w &&& 0b011#3 = 0b001#3 := by obtain h3 | h3 := h3 <;> rw [h3] <;> rfl
    have hok := isWordOf_shiftImm hop hlow hread exts hi
    simp [hok] at h

theorem illegalSelector_of_mem_variantsI (hi : .i ∈ exts) (h : dispatch exts w = .error .illegalSubOpcode) :
    ∀ v ∈ variantsI, v.template.matches w = true → v.read w = none → IllegalSelector w := by
  simp only [variantsI, List.forall_mem_cons]
  refine ⟨?lui, ?auipc, ?jal, ?jalr, ?branch, ?load, ?store, ?shiftImm, ?imm, ?op, ?fence, ?ecall, ?ebreak, nofun⟩
  case lui | auipc | jal | jalr | fence | ecall | ebreak => exact fun _ => nofun
  case branch => exact fun hm hread => .inl ⟨opcodeOf_of_mask rfl hm, funct3Of_of_readBranch_eq_none hread⟩
  case load => exact fun hm hread => .inr (.inl ⟨opcodeOf_of_mask rfl hm, funct3Of_of_readLoad_eq_none hread⟩)
  case store => exact fun hm hread => .inr (.inr (.inl ⟨opcodeOf_of_mask rfl hm, funct3Of_of_readStore_eq_none hread⟩))
  case shiftImm => exact fun hm _ => illegalSelector_of_imm_opcode hi h (opcodeOf_of_mask rfl hm) (funct3Of_of_matches_shiftImm hm)
  case imm => exact fun hm hread => illegalSelector_of_imm_opcode hi h (opcodeOf_of_mask rfl hm) (funct3Of_of_readImm_eq_none hread)
  case op =>
    exact fun hm hread =>
      .inr (.inr (.inr (.inr ⟨opcodeOf_of_mask rfl hm, selector_of_readOp_eq_none (funct7Of_of_matches_op hm) hread⟩)))

/-- The variants of the other extensions know every word they match. -/
theorem read_ne_none (hv : v ∈ variantsOf e) (he : e ≠ .i) : v.read w ≠ none := by
  revert v
  cases e with
  | i => exact absurd rfl he
  | m | a | z =>
    simp only [variantsOf, variantsM, variantsA, variantsZ, List.forall_mem_cons]
    simp [readR, readAmo, readCsrOperands]
  | unknown => nofun

theorem illegalSelector_of_dispatch (hi : .i ∈ exts) (h : dispatch exts w = .error .illegalSubOpcode) : IllegalSelector w := by
  obtain ⟨-, hunmatched⟩ | ⟨e, -, v, hv, hm, ⟨hread, -⟩ | ⟨i, -, hok⟩⟩ := dispatch_cases exts w
  · simp [hunmatched] at h
  · obtain rfl : e = .i := by
      by_contra he
      exact read_ne_none hv he hread
    exact illegalSelector_of_mem_variantsI hi h v hv hm hread
  · simp [hok] at h

end IllegalSelectors

/-- Settles O6: the variant that decides an illegal sub-opcode is a catch-all of `i` that does not know its selector. -/
theorem illegalSubOpcodesAreThoseListed : Obligations.IllegalSubOpcodesAreThoseListed := fun _ _ hi =>
  ⟨illegalSelector_of_dispatch hi, fun h => h.dispatch_eq hi⟩

end Sys2Proof.Machine

/-! PROOFS. The unmatched words (spec/30_encoding.md R152, R160 class 3): no template matches a listed word, and some template matches every
other word. -/

namespace Sys2Proof.Machine

section UnmatchedWords

variable {v : Variant} {w value : Word}

/-! ### The listed words have no variant -/

/-- The opcodes of the variants (R153, R160). -/
def listedOpcodes : List (BitVec 7) := [0b0000011#7, 0b0001111#7, 0b0010011#7, 0b0010111#7, 0b0100011#7, 0b0101111#7, 0b0110011#7,
  0b0110111#7, 0b1100011#7, 0b1100111#7, 0b1101111#7, 0b1110011#7]

theorem noVariantFor_other_opcode (hop : opcodeOf w ∉ listedOpcodes) : NoVariantFor w := by
  have hlisted : ∀ v ∈ variantsI ++ variantsM ++ variantsA ++ variantsZ, opcodeOf v.template.value ∈ listedOpcodes := by decide
  refine noVariantFor_of_opcode fun v hv _ => hop ?_
  obtain ⟨hmem, hvalue⟩ := List.mem_filter.1 hv
  rw [← of_decide_eq_true hvalue]
  exact hlisted v hmem

theorem noVariantFor_op_opcode (hop : opcodeOf w = 0b0110011#7) (h7 : funct7Of w ∉ [0b0000000#7, 0b0100000#7, 0b0000001#7]) :
    NoVariantFor w := by
  simp only [List.mem_cons, List.not_mem_nil, or_false, not_or] at h7
  obtain ⟨h0, h32, h1⟩ := h7
  refine noVariantFor_of_opcode fun v hv hm => ?_
  rw [hop, variantsWithOpcode_op, List.mem_cons] at hv
  obtain rfl | hmul := hv
  · exact (funct7Of_of_matches_op hm).elim h0 h32
  · exact h1 (funct7Of_of_matches_variantsM hmul hm)

theorem noVariantFor_system_funct3 (hop : opcodeOf w = 0b1110011#7) (h3 : funct3Of w = 4) : NoVariantFor w := by
  have hfixed : ∀ v ∈ variantsWithOpcode 0b1110011#7, funct3Of v.template.mask = BitVec.allOnes 3 ∧ funct3Of v.template.value ≠ 4 := by
    decide
  refine noVariantFor_of_opcode fun v hv hm => ?_
  rw [hop] at hv
  obtain ⟨hmask, hvalue⟩ := hfixed v hv
  obtain ⟨-, -, -, hmatch, -, -⟩ := (and_eq_iff ..).1 (Template.matches_iff.1 hm)
  exact hvalue (hmatch.symm.trans ((Laws.and_fixed _ hmask).trans h3))

theorem UnmatchedListed.noVariantFor (h : UnmatchedListed w) : NoVariantFor w := by
  obtain hop | ⟨hop, h7⟩ | ⟨hop, h3⟩ | ⟨hop, h3⟩ | ⟨hop, h3 | h5 | ⟨h5, h2⟩⟩ | ⟨hop, h3, hw⟩ | ⟨hop, h3⟩ := h
  · exact noVariantFor_other_opcode hop
  · exact noVariantFor_op_opcode hop h7
  · exact noVariantFor_jalr_opcode hop h3
  · exact noVariantFor_fence_opcode hop h3
  · exact noVariantFor_other_atomic hop (.inl h3)
  · exact noVariantFor_other_atomic hop (.inr h5)
  · exact noVariantFor_lrw_rs2 hop h5 h2
  · exact noVariantFor_system_opcode hop h3 hw
  · exact noVariantFor_system_funct3 hop h3

/-! ### Every other word has one -/

/-- Some variant of the four extensions matches the word. -/
def SomeMatches (w : Word) : Prop := ∃ e ∈ defaultExtensions, ∃ v ∈ variantsOf e, v.template.matches w = true

/-- A template that fixes the opcode and funct3 matches the words that have both. -/
theorem matches_of_funct3Of (h : encodeR 0 0 0 (funct3Of w) 0 (opcodeOf w) = value) : Template.matches ⟨0x0000707F, value⟩ w = true := by
  rw [Template.matches_iff, ← h]
  conv_lhs => rw [← encodeR_fields w]
  exact Laws.rowF3 ..

theorem someMatches_of_isWordOf {e : Ext} {i : Instr} (h : IsWordOf e w i) (he : e ∈ defaultExtensions) : SomeMatches w := by
  obtain ⟨-, hunmatched⟩ | ⟨e, he', v, hv, hm, -⟩ := dispatch_cases defaultExtensions w
  · simp [h _ he] at hunmatched
  · exact ⟨e, he', v, hv, hm⟩

/-- The opcodes that a template fixes and nothing else. -/
def opcodesWithoutSelector : List (BitVec 7) := [0b0000011#7, 0b0010011#7, 0b0010111#7, 0b0100011#7, 0b0110111#7, 0b1100011#7, 0b1101111#7]

theorem someMatches_of_opcode (hop : opcodeOf w ∈ opcodesWithoutSelector) : SomeMatches w := by
  have hvariant : ∀ op ∈ opcodesWithoutSelector, ∃ v ∈ variantsI, v.template = ⟨0x0000007F, encodeR 0 0 0 0 0 op⟩ := by decide
  obtain ⟨v, hv, htemplate⟩ := hvariant _ hop
  refine ⟨.i, by decide, v, hv, ?_⟩
  rw [htemplate]
  exact matches_of_opcodeOf rfl

theorem someMatches_of_funct3_zero (hop : opcodeOf w ∈ [0b0001111#7, 0b1100111#7]) (h3 : funct3Of w = 0) : SomeMatches w := by
  have hvariant : ∀ op ∈ [0b0001111#7, 0b1100111#7], ∃ v ∈ variantsI, v.template = ⟨0x0000707F, encodeR 0 0 0 0 0 op⟩ := by decide
  obtain ⟨v, hv, htemplate⟩ := hvariant _ hop
  refine ⟨.i, by decide, v, hv, ?_⟩
  rw [htemplate]
  exact matches_of_funct3Of (by rw [h3])

/-- OP's template matches both values of bit 30 (R220). -/
theorem someMatches_of_readOp (hop : opcodeOf w = 0b0110011#7) (h7 : funct7Of w &&& 0b1011111#7 = 0#7) : SomeMatches w := by
  refine ⟨.i, by decide, ⟨⟨0xBE00007F, 0x00000033⟩, readOp⟩, by simp [variantsOf, variantsI], ?_⟩
  rw [Template.matches_iff, and_eq_iff, hop]
  exact ⟨h7, Laws.and_free _ rfl, Laws.and_free _ rfl, Laws.and_free _ rfl, Laws.and_free _ rfl, rfl⟩

theorem someMatches_of_op_opcode (hop : opcodeOf w = 0b0110011#7) (h7 : funct7Of w ∈ [0b0000000#7, 0b0100000#7, 0b0000001#7]) :
    SomeMatches w := by
  simp only [List.mem_cons, List.not_mem_nil, or_false] at h7
  obtain h7 | h7 | h7 := h7
  · exact someMatches_of_readOp hop (by rw [h7]; rfl)
  · exact someMatches_of_readOp hop (by rw [h7]; rfl)
  · have hvariant : ∀ f3 : BitVec 3, ∃ v ∈ variantsM, v.template.value = encodeR 0b0000001#7 0 0 f3 0 0b0110011#7 := by decide
    obtain ⟨v, hv, hvalue⟩ := hvariant (funct3Of w)
    refine ⟨.m, by decide, v, hv, ?_⟩
    rw [← encodeR_of_fields h7 rfl hop]
    exact (matches_encodeR_of_mem_variantsM hv ..).2 hvalue


theorem someMatches_of_atomic_opcode (hop : opcodeOf w = 0b0101111#7) (h3 : funct3Of w = 2)
    (h5 : bits w 27 5 ∈ [0b00010#5, 0b00011#5, 0b00001#5, 0b00000#5, 0b00100#5, 0b01100#5, 0b01000#5, 0b10000#5, 0b10100#5, 0b11000#5,
      0b11100#5]) (h2 : bits w 27 5 = 0b00010#5 → rs2Of w = 0) : SomeMatches w := by
  have hvariant : ∀ f5 ∈ [0b00010#5, 0b00011#5, 0b00001#5, 0b00000#5, 0b00100#5, 0b01100#5, 0b01000#5, 0b10000#5, 0b10100#5,
      0b11000#5, 0b11100#5], ∃ v ∈ variantsA, bits v.template.value 27 5 = f5 := by decide
  obtain ⟨v, hv, hvalue⟩ := hvariant _ h5
  refine ⟨.a, by decide, v, hv, ?_⟩
  rw [← encodeA_of_fields rfl h3 hop]
  exact (matches_encodeA_iff hv h2).2 hvalue

theorem someMatches_of_system_opcode (hop : opcodeOf w = 0b1110011#7) (h4 : funct3Of w ≠ 4)
    (h0 : funct3Of w = 0 → w ∈ [0x00000073#32, 0x00100073#32, 0x30200073#32, 0x10500073#32]) : SomeMatches w := by
  by_cases h3 : funct3Of w = 0
  · have hexact := h0 h3
    simp only [List.mem_cons, List.not_mem_nil, or_false] at hexact
    obtain rfl | rfl | rfl | rfl := hexact
    · exact someMatches_of_isWordOf isWordOf_ecall (by decide)
    · exact someMatches_of_isWordOf isWordOf_ebreak (by decide)
    · exact someMatches_of_isWordOf isWordOf_mret (by decide)
    · exact someMatches_of_isWordOf isWordOf_wfi (by decide)
  · have hvariant : ∀ f3 : BitVec 3, f3 ≠ 0 → f3 ≠ 4 →
        ∃ v ∈ variantsZ, v.template = ⟨0x0000707F, encodeR 0 0 0 f3 0 0b1110011#7⟩ := by decide
    obtain ⟨v, hv, htemplate⟩ := hvariant _ h3 h4
    refine ⟨.z, by decide, v, hv, ?_⟩
    rw [htemplate]
    exact matches_of_funct3Of (by rw [hop])

theorem someMatches_of_not_listed (h : ¬ UnmatchedListed w) : SomeMatches w := by
  unfold UnmatchedListed at h
  simp only [not_or, not_and, not_not] at h
  obtain ⟨hop, hop7, hjalr, hfence, hatomic, hsystem, hsystem4⟩ := h
  have hcases : ∀ op ∈ listedOpcodes, op ∈ opcodesWithoutSelector ∨ op ∈ [0b0001111#7, 0b1100111#7] ∨ op = 0b0110011#7 ∨
      op = 0b0101111#7 ∨ op = 0b1110011#7 := by decide
  obtain hop | hop | hop | hop | hop := hcases _ hop
  · exact someMatches_of_opcode hop
  · refine someMatches_of_funct3_zero hop ?_
    simp only [List.mem_cons, List.not_mem_nil, or_false] at hop
    exact hop.elim hfence hjalr
  · exact someMatches_of_op_opcode hop (hop7 hop)
  · obtain ⟨h3, h5, h2⟩ := hatomic hop
    exact someMatches_of_atomic_opcode hop h3 h5 h2
  · exact someMatches_of_system_opcode hop (hsystem4 hop) (hsystem hop)

end UnmatchedWords

/-- Settles O7: an unmatched word is one that no template of the four extensions matches. -/
theorem unmatchedWordsAreThoseListed : Obligations.UnmatchedWordsAreThoseListed := by
  intro exts w hi hm ha hz
  refine ⟨fun h => ?_, fun h => h.noVariantFor exts⟩
  by_contra hlisted
  obtain ⟨e, he, v, hv, hmatch⟩ := someMatches_of_not_listed hlisted
  have henabled : ∀ e ∈ defaultExtensions, e ∈ exts := by simp [defaultExtensions, hi, hm, ha, hz]
  obtain ⟨hnone, -⟩ | ⟨_, -, _, -, -, ⟨-, hillegal⟩ | ⟨i, -, hok⟩⟩ := dispatch_cases exts w
  · simp [hnone e (henabled e he) v hv] at hmatch
  · simp [hillegal] at h
  · simp [hok] at h

end Sys2Proof.Machine

/-! PROOFS. Time and the cycle counter in a step (spec/60_exceptions.md R502, R511): the first phase advances one, the last phase the other,
and nothing between them writes either. -/

namespace Sys2Proof.Machine

section Counters

variable {s t : State}

@[simp] theorem State.clearX0_fixedPart (s : State) : s.clearX0.fixedPart = s.fixedPart := rfl

theorem State.time_eq_of_fixedPart_eq (h : t.fixedPart = s.fixedPart) : t.time = s.time := by
  obtain ⟨-, htime, -⟩ := State.fixedPart_eq_iff.1 h
  exact htime

theorem State.cycle_eq_of_fixedPart_eq (h : t.fixedPart = s.fixedPart) : t.cycle = s.cycle := by
  obtain ⟨-, -, hcycle, -⟩ := State.fixedPart_eq_iff.1 h
  exact hcycle

theorem State.cycle_congr (hl : t.cyclel = s.cyclel) (hh : t.cycleh = s.cycleh) : t.cycle = s.cycle := by
  unfold State.cycle
  rw [hl, hh]

@[simp] theorem beginStep_cycle (s : State) : (beginStep s).cycle = s.cycle := State.cycle_congr (beginStep_cyclel s) (beginStep_cycleh s)

/-- A step is its first phase alone, or its last phase after operations that keep the counters (R500). -/
theorem step_fixedPart (h : step s = .next t) :
    ((beginStep s).waiting = true ∧ t = beginStep s) ∨
    ((beginStep s).waiting = false ∧ ∃ u, t = endStep u ∧ u.fixedPart = (beginStep s).fixedPart) := by
  obtain ⟨hwait, rfl⟩ | ⟨hwait, -, rfl⟩ | ⟨hwait, -, w, s', u, hfetch, hrun, rfl⟩ := step_next h
  · exact .inl ⟨hwait, rfl⟩
  · exact .inr ⟨hwait, _, rfl, enterInterrupt_fixedPart _⟩
  · exact .inr ⟨hwait, u, rfl, (runWord_fixedPart hrun).trans ((State.clearX0_fixedPart s').trans (fetch_fixedPart hfetch))⟩

theorem step_time (h : step s = .next t) : t.time = s.time + s.elapsed.setWidth 64 := by
  rw [← beginStep_time]
  obtain ⟨-, rfl⟩ | ⟨-, u, rfl, hfixed⟩ := step_fixedPart h
  · rfl
  · exact State.time_eq_of_fixedPart_eq (s := beginStep s) (t := u) hfixed

theorem step_cycle (h : step s = .next t) : t.cycle = if (beginStep s).waiting = true then s.cycle else s.cycle + 1 := by
  obtain ⟨hwait, rfl⟩ | ⟨hwait, u, rfl, hfixed⟩ := step_fixedPart h
  · rw [if_pos hwait, beginStep_cycle]
  · rw [if_neg (by simp [hwait]), endStep_cycle, State.cycle_eq_of_fixedPart_eq hfixed, beginStep_cycle]

theorem toNat_append_word (h l : Word) : (h ++ l).toNat = 2 ^ 32 * h.toNat + l.toNat := by
  rw [BitVec.toNat_append, ← Nat.shiftLeft_add_eq_or_of_lt l.isLt, Nat.shiftLeft_eq, Nat.mul_comm]

/-- A 64-bit sum by halves: the lower half wraps around, and carries exactly where it does. -/
theorem halves_of_append_eq_add {th tl h l e : Word} (heq : th ++ tl = h ++ l + e.setWidth 64) :
    tl = l + e ∧ th = if l.toNat + e.toNat ≥ 2 ^ 32 then h + 1 else h := by
  have hsum := congrArg BitVec.toNat heq
  rw [BitVec.toNat_add, toNat_append_word, toNat_append_word, BitVec.toNat_setWidth_of_le (by omega)] at hsum
  have := tl.isLt
  have := l.isLt
  have := e.isLt
  have := h.isLt
  have := th.isLt
  constructor
  · apply BitVec.eq_of_toNat_eq
    rw [BitVec.toNat_add]
    omega
  · apply BitVec.eq_of_toNat_eq
    split
    · rw [BitVec.toNat_add, show (1 : Word).toNat = 1 from rfl]
      omega
    · omega

end Counters

/-- Settles O44: the halves of time + ELAPSED. -/
theorem timeAdvancesByElapsed : Obligations.TimeAdvancesByElapsed := fun _ _ h => halves_of_append_eq_add (step_time h)

/-- Settles O50: the last phase counts the step, and only an idle step does not reach it. -/
theorem cycleCountsSteps : Obligations.CycleCountsSteps := fun _ _ => step_cycle

end Sys2Proof.Machine

/-! PROOFS. The timer check (spec/60_exceptions.md R503, spec/92_eei_decisions.md D17) and the steps of a hart that waits (R501). -/

namespace Sys2Proof.Machine

section TimerCheck

variable {s : State}

theorem beginStep_priv (s : State) : (beginStep s).priv = s.priv := by
  unfold State.priv
  rw [beginStep_extraflags]
  split
  · exact extract_setField_other _ _ _ _ _ (by omega) (by omega)
  · rfl

theorem beginStep_timerPending (s : State) : (beginStep s).timerPending = timerCondition (advanceTimer (s.setTrap 0)) :=
  beginStep_mip_bit s 7 (by omega)

theorem beginStep_mip_other (s : State) {k : Nat} (hk : k < 32) (h7 : k ≠ 7) : (beginStep s).mip.getLsbD k = s.mip.getLsbD k :=
  (beginStep_mip_bit s k hk).trans (if_neg h7)

/-- A hart that waits after the timer check has no timer interrupt pending. -/
theorem timerPending_of_waiting (h : (beginStep s).waiting = true) : (beginStep s).timerPending = false := by
  rw [beginStep_waiting, Bool.and_eq_true, Bool.not_eq_true'] at h
  obtain ⟨-, hcondition⟩ := h
  rw [beginStep_timerPending, hcondition]

theorem waiting_of_timerPending (h : (beginStep s).timerPending = true) : (beginStep s).waiting = false := by
  rw [beginStep_timerPending] at h
  rw [beginStep_waiting, h, Bool.not_true, Bool.and_false]

@[simp] theorem beginStep_timecmp (s : State) : (beginStep s).timecmp = s.timecmp := by
  unfold State.timecmp
  rw [beginStep_timecmph, beginStep_timecmpl]

/-- timecmp = 0 turns the timer off (R503). -/
theorem timerCondition_of_timecmp_eq_zero (h : s.timecmp = 0) : timerCondition s = false := by
  unfold timerCondition
  rw [h]
  rfl

theorem setTrap_of_trap_eq_zero (h : s.trap = 0) : s.setTrap 0 = s := by
  rw [← h]
  rfl

/-- The first phase of a step in which the timer condition does not hold, as one update. -/
theorem beginStep_of_timerPending_eq_false (htrap : s.trap = 0) (h : (beginStep s).timerPending = false) :
    beginStep s = { s with
      timel := (beginStep s).timel, timeh := (beginStep s).timeh, mip := (beginStep s).mip, elapsedIn := s.elapsedIn.tail } := by
  rw [beginStep_timerPending] at h
  have hbegin : beginStep s = { advanceTimer (s.setTrap 0) with mip := setField (advanceTimer (s.setTrap 0)).mip 7 0#1 } :=
    if_neg (ne_true_of_eq_false h)
  rw [hbegin, setTrap_of_trap_eq_zero htrap]
  rfl

end TimerCheck

/-- A 64-bit number by its halves. -/
theorem toNat_eq_halves (x : BitVec 64) : x.toNat = 2 ^ 32 * (x.extractLsb' 32 32).toNat + (x.extractLsb' 0 32).toNat := by
  rw [← toNat_append_word, append_extract_halves]

/-- Settles O45: mip bit 7 is the timer condition, which also ends the wait. -/
theorem timerPendingRecomputed : Obligations.TimerPendingRecomputed := by
  intro s hcmp b holds
  have hcondition : timerCondition (advanceTimer (s.setTrap 0)) = true ↔ holds := timerCondition_advanceTimer_iff hcmp
  refine ⟨?pending, fun k => beginStep_mip_other s, ?waiting, beginStep_priv s, beginStep_resv s⟩
  case pending => rw [← hcondition, ← beginStep_timerPending]
  case waiting => simp only [b, beginStep_waiting, ← hcondition, Bool.and_eq_true, Bool.not_eq_true', Bool.not_eq_true]

/-- Settles O46: the halves of a 64-bit number compare in order as the number does. -/
theorem timerComparisonsRelated : Obligations.TimerComparisonsRelated := by
  refine ⟨fun a b => ?lexicographic, fun a b h => ?componentwise, by decide, by decide⟩
  case lexicographic =>
    have hlow := (a.extractLsb' 0 32).isLt
    have hlow' := (b.extractLsb' 0 32).isLt
    rw [Bool.eq_iff_iff]
    simp only [timerReached, toNat_eq_halves a, toNat_eq_halves b, Bool.or_eq_true, Bool.and_eq_true, decide_eq_true_iff]
    omega
  case componentwise =>
    simp only [timerReached, toNat_eq_halves a, toNat_eq_halves b, Bool.and_eq_true, decide_eq_true_iff] at h ⊢
    omega

/-- Settles O48: the step ends after the timer check, which found the timer condition not to hold. -/
theorem idleStepChangesOnlyTimer : Obligations.IdleStepChangesOnlyTimer := by
  intro s htrap hwait
  have hpending := timerPending_of_waiting hwait
  exact ⟨beginStep s, step_of_waiting hwait, beginStep_time s, hpending, fun k => beginStep_mip_other s,
    beginStep_of_timerPending_eq_false htrap hpending⟩

/-- Settles O49, by induction on the number of steps: with timecmp = 0 each of them is idle, and keeps timecmp. -/
theorem wfiWithTimerOffWaitsForever : Obligations.WfiWithTimerOffWaitsForever := by
  intro k
  induction k with
  | zero => exact fun s hwait _ => ⟨s, rfl, hwait, rfl, rfl, rfl, rfl⟩
  | succ k ih =>
    intro s hwait hoff
    have hcondition : timerCondition (advanceTimer (s.setTrap 0)) = false := timerCondition_of_timecmp_eq_zero hoff
    have hidle : (beginStep s).waiting = true := by rw [beginStep_waiting, hwait, hcondition]; rfl
    obtain ⟨t, hrun, hwait', hpc, hcycle, hregs, hmem⟩ := ih (beginStep s) hidle ((beginStep_timecmp s).trans hoff)
    simp only [beginStep_pc, beginStep_cycle, beginStep_regs, beginStep_mem] at hpc hcycle hregs hmem
    exact ⟨t, (core_run_of_next (step_of_waiting hidle) k).trans hrun, hwait', hpc, hcycle, hregs, hmem⟩

end Sys2Proof.Machine

/-! PROOFS. Trap entry, the return from a trap, and the timer interrupt (spec/60_exceptions.md R504, R520 to R527, R534,
spec/47_zicsr_system.md R420). -/

namespace Sys2Proof.Machine

section Traps

variable {s t : State} {cause epc tval : Word}

/-- The trap codes of R520 are signals of synchronous traps. -/
theorem trapCodes_synchronous :
    ∀ code ∈ [3#32, 4#32, 9#32, 10#32, 11#32, 12#32], code ≠ 0 ∧ code.getLsbD 31 = false := by
  simp only [List.forall_mem_cons]
  exact ⟨by decide, by decide, by decide, by decide, by decide, by decide, nofun⟩

/-- Trap entry keeps registers, memory and the cycle counter. -/
theorem TrapEntered.frame (h : TrapEntered cause epc tval s t) :
    t.regs = s.regs ∧ t.mem = s.mem ∧ t.cyclel = s.cyclel ∧ t.cycleh = s.cycleh := by
  obtain ⟨-, -, -, -, -, -, -, -, -, -, -, -, hframe⟩ := h
  rw [hframe]
  exact ⟨rfl, rfl, rfl, rfl⟩

/-- MRET in a state with the mepc and mstatus of a trap undoes what the entry did to pc, priv and MIE. -/
theorem TrapEntered.exec_mret {u : State} (h : TrapEntered cause epc tval s t) (hmepc : u.mepc = t.mepc)
    (hmstatus : u.mstatus = t.mstatus) :
    ∃ v, exec .mret u = .next v ∧ v.pc = epc ∧ v.priv = s.priv ∧ v.statusMie = s.statusMie ∧ (∀ r, v.reg r = u.reg r) ∧
      v.mem = u.mem := by
  obtain ⟨-, hepc, -, -, hmpie, -, hmpp, -⟩ := h
  obtain ⟨-, hmret⟩ := mretReturns
  obtain ⟨v, hexec, hpc, hpriv, -, -, hmie, -, -, -, hframe⟩ := hmret u
  refine ⟨v, hexec, hpc.trans (hmepc.trans hepc), hpriv.trans ?_, hmie.trans ?_, State.reg_congr (by rw [hframe]), by rw [hframe]⟩
  · rw [State.statusMpp, hmstatus]
    exact hmpp
  · rw [State.statusMpie, hmstatus]
    exact hmpie

/-- A trap and the return from it, as the statement says them. -/
theorem TrapEntered.then_mret (h : TrapEntered cause epc tval s t) :
    (∀ r, t.reg r = s.reg r) ∧ t.mem = s.mem ∧
      ∀ u : State, u.mepc = t.mepc → u.mstatus = t.mstatus →
        ∃ v, exec .mret u = .next v ∧ v.pc = epc ∧ v.priv = s.priv ∧ v.statusMie = s.statusMie ∧ (∀ r, v.reg r = u.reg r) ∧
          v.mem = u.mem := by
  obtain ⟨hregs, hmem, -, -⟩ := h.frame
  exact ⟨State.reg_congr hregs, hmem, fun _ => h.exec_mret⟩

end Traps

/-- Settles O24: the codes of R520 are synchronous signals, and the interrupt's is not. -/
theorem trapEntryEffects : Obligations.TrapEntryEffects := by
  refine ⟨fun code s hcode => ?_, enterInterrupt_effect⟩
  obtain ⟨hnonzero, hsync⟩ := trapCodes_synchronous code hcode
  exact raiseTrap_effect code hnonzero hsync s

/-- Settles O27: entry saves pc, priv and MIE in mepc, MPP and MPIE, from which MRET takes them. -/
theorem trapThenMretResumes : Obligations.TrapThenMretResumes := by
  refine ⟨fun s t h => ?_, fun s => (enterInterrupt_effect s).then_mret⟩
  obtain ⟨u, hu, htrap⟩ := exec_ecall_effect s
  cases hu.symm.trans h
  exact htrap.then_mret

section TimerInterrupt

variable {s : State}

theorem interruptTaken_beginStep_iff :
    interruptTaken (beginStep s) = true ↔
      (beginStep s).timerPending = true ∧ s.mie.getLsbD 7 = true ∧ s.mstatus.getLsbD 3 = true := by
  simp [interruptTaken, State.timerEnabled, State.statusMie, and_assoc]

theorem step_of_interruptTaken (hwait : (beginStep s).waiting = false) (hint : interruptTaken (beginStep s) = true) :
    step s = .next (endStep (enterInterrupt (beginStep s))) := by
  unfold step runStep runPhase
  rw [hwait, hint]
  rfl

@[simp] theorem endStep_reg (s : State) (r : RegNum) : (endStep s).reg r = s.reg r := State.clearX0_reg (countCycle s) r

/-- The last phase of a step, undone. -/
theorem endStep_with_regs_cycle {u : State} {regs : Vector Word 32} {cyclel cycleh : Word} (hregs : u.regs = regs)
    (hcyclel : u.cyclel = cyclel) (hcycleh : u.cycleh = cycleh) :
    { endStep u with regs := regs, cyclel := cyclel, cycleh := cycleh } = u := by
  subst hregs hcyclel hcycleh
  rfl

end TimerInterrupt

/-- Settles O47: the step is interrupt entry between the timer phase and the last phase; a pending interrupt has ended the wait. -/
theorem timerInterruptTaken : Obligations.TimerInterruptTaken := by
  refine ⟨fun s hpending hmie hstatus => ?_, fun s => interruptTaken_beginStep_iff⟩
  have hwait := waiting_of_timerPending hpending
  have hstep := step_of_interruptTaken hwait (interruptTaken_beginStep_iff.2 ⟨hpending, hmie, hstatus⟩)
  have hentered := enterInterrupt_effect (beginStep s)
  obtain ⟨hregs, hmem, hcyclel, hcycleh⟩ := hentered.frame
  rw [beginStep_regs] at hregs
  obtain ⟨-, hmepc, -, hpc, -, -, -, -, -, hwaiting, -⟩ := enterInterrupt_effect (beginStep s)
  refine ⟨_, hstep, ?entered, hmepc.trans (beginStep_pc s), hpc.trans (beginStep_mtvec s), hwaiting.trans hwait, fun r => ?reg,
    hmem.trans (beginStep_mem s), ?cycle⟩
  case entered =>
    rw [endStep_with_regs_cycle hregs (hcyclel.trans (beginStep_cyclel s)) (hcycleh.trans (beginStep_cycleh s))]
    exact hentered
  case reg => rw [endStep_reg, State.reg_congr hregs]
  case cycle => rw [endStep_cycle, State.cycle_eq_of_fixedPart_eq (enterInterrupt_fixedPart _), beginStep_cycle]

end Sys2Proof.Machine

/-! PROOFS. The step that fetches (spec/60_exceptions.md R500, R505): the word in RAM that decodes, and the fetch that fails. -/

namespace Sys2Proof.Machine

section FetchingStep

variable {s : State} {w : Word} {i : Instr} {f : Fault}

theorem runWord_of_dispatch_ok (h : dispatch s.cfg.extensions w = .ok i) : runWord w s = exec i s := by
  unfold runWord
  rw [h]

theorem step_of_fetch_error (hwait : (beginStep s).waiting = false) (hint : interruptTaken (beginStep s) = false)
    (h : fetch (beginStep s) = .error f) : step s = .fault f := by
  unfold step runStep runPhase
  rw [hwait, hint, h]
  rfl

/-- The first phase of a step leaves pc and the address map alone. -/
theorem fetch_beginStep_of_accessFails (h : AccessFails s.cfg s.pc 4 f) : fetch (beginStep s) = .error f := by
  refine fetch_of_busRead_error (busRead_of_access_error ?_)
  rw [beginStep_cfg, beginStep_pc]
  exact access_fails (by decide) h

end FetchingStep

/-- Settles O41: the fetch reads the word of the four bytes, and the step runs what the dispatcher answers for it. -/
theorem stepRunsDecodedInstruction : Obligations.StepRunsDecodedInstruction := by
  intro s i b hwait hint hram hdecode
  have hrun : runWord (b.wordAt b.pc.toNat) b.clearX0 = exec i b.clearX0 := runWord_of_dispatch_ok hdecode
  have hstep : step s = finish (exec i b.clearX0) := (step_of_fetch hwait hint (fetch_ram hram)).trans (congrArg finish hrun)
  exact ⟨fun t hexec => by rw [hstep, hexec]; rfl, fun f hexec => by rw [hstep, hexec]; rfl⟩

/-- Settles O43: the fetch is the step's first access, and fails as its access does. -/
theorem fetchOutsideMapIsFatal : Obligations.FetchOutsideMapIsFatal := fun _ _ hwait hint hfails =>
  step_of_fetch_error hwait hint (fetch_beginStep_of_accessFails hfails)

end Sys2Proof.Machine

/-! PROOFS. A stored word read back, by a load and by the fetch (spec/20_memory.md R92, R102, spec/43_i_memory.md R295). -/

namespace Sys2Proof.Machine

section StoredWord

variable {s : State} {a : Word}

theorem busRead_after_busWrite_ram {n : Nat} (h : InRam s.cfg a n) (v : Nat) :
    busRead { s with mem := ramWrite s.mem a.toNat n v } a n = .ok (v % 256 ^ n, { s with mem := ramWrite s.mem a.toNat n v }) := by
  rw [busRead_ram (s := { s with mem := ramWrite s.mem a.toNat n v }) h, ramRead_ramWrite]

/-- The four bytes of a word make the word. -/
theorem ofNat_toNat_mod_word (w : Word) : BitVec.ofNat 32 (w.toNat % 256 ^ 4) = w := by
  rw [show 256 ^ 4 = 2 ^ 32 from rfl, Nat.mod_eq_of_lt w.isLt, BitVec.ofNat_toNat, BitVec.setWidth_eq]

theorem load_of_busRead {n v : Nat} {ext : Nat → Word} {rd rs1 : RegNum} {imm : BitVec 12} {s' : State}
    (h : busRead s (effAddr s rs1 imm) n = .ok (v, s')) : load n ext rd rs1 imm s = retire rd (ext v) s' := by
  unfold load
  rw [h]

/-- What rd holds at the end of an instruction (R31). -/
theorem reg_of_retire {rd : RegNum} {v : Word} {t : State} (h : retire rd v s = .next t) : t.reg rd = if rd = 0 then 0 else v := by
  obtain ⟨u, hu, ⟨hrd, -⟩, -⟩ := retire_effect rd v s
  cases hu.symm.trans h
  exact hrd

end StoredWord

/-- Settles O20: the load reads at the same address the bytes that the store left there. -/
theorem loadAfterStoreReturnsValue : Obligations.LoadAfterStoreReturnsValue := by
  intro rd rs1 rs2 imm s t hram hstore
  obtain ⟨s', hwrite, rfl⟩ := store_next hstore
  cases (busWrite_ram hram).symm.trans hwrite
  have hread := busRead_after_busWrite_ram (s := advance s) hram (s.reg rs2).toNat
  have hload := load_of_busRead (ext := BitVec.ofNat 32) (rd := rd) hread
  refine ⟨_, hload, ?_⟩
  rw [reg_of_retire rfl, ofNat_toNat_mod_word]

/-- Settles O21: the fetch is a bus read at the address of the write. -/
theorem fetchSeesStoredWord : Obligations.FetchSeesStoredWord := by
  intro s w hram
  refine ⟨_, busWrite_ram hram, ?_⟩
  rw [fetch_of_busRead_ok (busRead_after_busWrite_ram hram w.toNat), ofNat_toNat_mod_word]

end Sys2Proof.Machine

/-! PROOFS. The laws of division and multiplication (spec/45_m_extension.md R320 to R330), first for the operations on words. -/

namespace Sys2Proof.Machine

section DivisionLaws

variable {a b : Word}

/-- Away from the zero divisor and the overflow, the quotient is the integers' own (R324). -/
theorem toInt_divSigned (hb : b ≠ 0) (hoverflow : ¬ (a = 0x80000000#32 ∧ b = 0xFFFFFFFF#32)) :
    (divSigned a b).toInt = a.toInt.tdiv b.toInt := by
  have hvalue : divSigned a b = BitVec.ofInt 32 (a.toInt.tdiv b.toInt) := (if_neg hb).trans (if_neg hoverflow)
  rw [hvalue, ← BitVec.toInt_sdiv_of_ne_or_ne a b (not_and_or.1 hoverflow), BitVec.ofInt_toInt]

/-- And so is the remainder (R326). -/
theorem toInt_remSigned (hb : b ≠ 0) (hoverflow : ¬ (a = 0x80000000#32 ∧ b = 0xFFFFFFFF#32)) :
    (remSigned a b).toInt = a.toInt.tmod b.toInt := by
  have hvalue : remSigned a b = BitVec.ofInt 32 (a.toInt - b.toInt * a.toInt.tdiv b.toInt) := (if_neg hb).trans (if_neg hoverflow)
  rw [hvalue, ← Int.tmod_def, ← BitVec.toInt_srem, BitVec.ofInt_toInt]

theorem signed_division_identity (hb : b ≠ 0) (hoverflow : ¬ (a = 0x80000000#32 ∧ b = 0xFFFFFFFF#32)) :
    a.toInt = b.toInt * (divSigned a b).toInt + (remSigned a b).toInt := by
  rw [toInt_divSigned hb hoverflow, toInt_remSigned hb hoverflow, Int.mul_tdiv_add_tmod]

theorem natAbs_remSigned_lt (hb : b ≠ 0) (hoverflow : ¬ (a = 0x80000000#32 ∧ b = 0xFFFFFFFF#32)) :
    (remSigned a b).toInt.natAbs < b.toInt.natAbs := by
  rw [toInt_remSigned hb hoverflow, Int.natAbs_tmod]
  exact Nat.mod_lt _ (Int.natAbs_pos.2 fun h => hb (BitVec.eq_of_toInt_eq h))

/-- The remainder's sign is the dividend's (R326). -/
theorem sign_remSigned (hb : b ≠ 0) (hoverflow : ¬ (a = 0x80000000#32 ∧ b = 0xFFFFFFFF#32)) :
    (remSigned a b).toInt = 0 ∨ (remSigned a b).toInt.sign = a.toInt.sign := by
  rw [toInt_remSigned hb hoverflow, Int.sign_tmod]
  split
  · rename_i hdvd
    exact .inl (Int.tmod_eq_zero_of_dvd hdvd)
  · exact .inr rfl

theorem toNat_divUnsigned (hb : b ≠ 0) : (divUnsigned a b).toNat = a.toNat / b.toNat := by
  rw [divUnsigned, if_neg hb, BitVec.toNat_ofNat]
  exact Nat.mod_eq_of_lt ((Nat.div_le_self _ _).trans_lt a.isLt)

theorem toNat_remUnsigned (hb : b ≠ 0) : (remUnsigned a b).toNat = a.toNat % b.toNat := by
  rw [remUnsigned, if_neg hb, BitVec.toNat_ofNat]
  exact Nat.mod_eq_of_lt ((Nat.mod_le _ _).trans_lt a.isLt)

theorem unsigned_division_identity (hb : b ≠ 0) : a.toNat = b.toNat * (divUnsigned a b).toNat + (remUnsigned a b).toNat := by
  rw [toNat_divUnsigned hb, toNat_remUnsigned hb, Nat.div_add_mod]

theorem toNat_remUnsigned_lt (hb : b ≠ 0) : (remUnsigned a b).toNat < b.toNat := by
  rw [toNat_remUnsigned hb]
  exact Nat.mod_lt _ (Nat.pos_of_ne_zero fun h => hb (BitVec.eq_of_toNat_eq h))

/-- Modulo 2^32 the identity holds for the zero divisor and for the overflow too. -/
theorem divSigned_mul_add_remSigned (a b : Word) : divSigned a b * b + remSigned a b = a := by
  by_cases hb : b = 0
  · subst hb
    simp [remSigned]
  by_cases hoverflow : a = 0x80000000#32 ∧ b = 0xFFFFFFFF#32
  · obtain ⟨rfl, rfl⟩ := hoverflow
    decide
  · have h := congrArg (BitVec.ofInt 32) (signed_division_identity hb hoverflow)
    rw [BitVec.ofInt_add, BitVec.ofInt_mul, BitVec.ofInt_toInt, BitVec.ofInt_toInt, BitVec.ofInt_toInt, BitVec.ofInt_toInt] at h
    rw [BitVec.mul_comm, ← h]

theorem divUnsigned_mul_add_remUnsigned (a b : Word) : divUnsigned a b * b + remUnsigned a b = a := by
  by_cases hb : b = 0
  · subst hb
    simp [remUnsigned]
  · have h := congrArg (BitVec.ofNat 32) (unsigned_division_identity (a := a) hb)
    rw [BitVec.ofNat_add, BitVec.ofNat_mul] at h
    simp only [BitVec.ofNat_toNat, BitVec.setWidth_eq] at h
    rw [BitVec.mul_comm, ← h]

/-- The halves of an unsigned product. -/
theorem unsigned_product_halves (a b : Word) :
    a.toNat * b.toNat = (highWord ((a.toNat : Int) * (b.toNat : Int))).toNat * 2 ^ 32 + (a * b).toNat := by
  have hlt : a.toNat * b.toNat / 2 ^ 32 < 2 ^ 32 := by
    have := Nat.mul_lt_mul'' a.isLt b.isLt
    omega
  rw [← Int.natCast_mul, highWord_natCast, BitVec.toNat_ofNat, Nat.mod_eq_of_lt hlt, BitVec.toNat_mul]
  omega

/-- The halves of a signed product: the lower one as the number it stands for. -/
theorem signed_product_halves (a b : Word) :
    a.toInt * b.toInt = (highWord (a.toInt * b.toInt)).toInt * 2 ^ 32 + (a * b).toNat := by
  have hle : a.toInt * b.toInt ≤ 2 ^ 62 := BitVec.toInt_mul_toInt_le
  have hge : -(2 ^ 62) ≤ a.toInt * b.toInt := BitVec.le_toInt_mul_toInt
  have hlow : ((a * b).toNat : Int) = a.toInt * b.toInt % 2 ^ 32 := by
    have hvalue : a * b = BitVec.ofInt 32 (a.toInt * b.toInt) := by rw [BitVec.ofInt_mul, BitVec.ofInt_toInt, BitVec.ofInt_toInt]
    rw [hvalue, BitVec.toNat_ofInt]
    omega
  rw [highWord_eq_ofInt, BitVec.toInt_ofInt_eq_self (by decide) (by omega) (by omega), hlow]
  omega

end DivisionLaws

/-- Settles O30: the laws of the operations, for the values that the instructions leave in rd. -/
theorem multiplyDivideLaws : Obligations.MultiplyDivideLaws := by
  intro rd rs1 rs2 s q r uq ur lo hi uhi hrd hdiv hrem hdivu hremu hmul hmulh hmulhu a b
  have hq : q.reg rd = divSigned a b := (reg_of_retire hdiv).trans (if_neg hrd)
  have hr : r.reg rd = remSigned a b := (reg_of_retire hrem).trans (if_neg hrd)
  have huq : uq.reg rd = divUnsigned a b := (reg_of_retire hdivu).trans (if_neg hrd)
  have hur : ur.reg rd = remUnsigned a b := (reg_of_retire hremu).trans (if_neg hrd)
  have hlo : lo.reg rd = a * b := (reg_of_retire hmul).trans (if_neg hrd)
  have hhi : hi.reg rd = highWord (a.toInt * b.toInt) := (reg_of_retire hmulh).trans (if_neg hrd)
  have huhi : uhi.reg rd = highWord ((a.toNat : Int) * (b.toNat : Int)) := (reg_of_retire hmulhu).trans (if_neg hrd)
  rw [hq, hr, huq, hur, hlo, hhi, huhi]
  exact ⟨fun hb hoverflow => ⟨signed_division_identity hb hoverflow, natAbs_remSigned_lt hb hoverflow, sign_remSigned hb hoverflow⟩,
    fun hb => ⟨unsigned_division_identity hb, toNat_remUnsigned_lt hb⟩, divSigned_mul_add_remSigned a b,
    divUnsigned_mul_add_remUnsigned a b, unsigned_product_halves a b, signed_product_halves a b⟩

end Sys2Proof.Machine

/-! PROOFS. Reset (spec/70_reset_and_hazards.md R600) and the CSR map (spec/10_state.md R36, spec/47_zicsr_system.md R390, R391). -/

namespace Sys2Proof.Machine

section Reset

variable (c : Config) (x : Vector Word 32) (ram : Memory)

theorem resetFrom_regs_zero : (State.resetFrom c x ram).regs[0] = 0 := by simp [State.resetFrom]

/-- The top of RAM, modulo 2^32. -/
theorem resetFrom_reg_two : (State.resetFrom c x ram).reg 2 = BitVec.ofNat 32 (c.dramBase.toNat + c.dramSize) := by
  have hsum : (State.resetFrom c x ram).reg 2 = c.dramBase + BitVec.ofNat 32 c.dramSize := Vector.getElem_set_self (by omega)
  rw [hsum, BitVec.ofNat_add, BitVec.ofNat_toNat, BitVec.setWidth_eq]

theorem resetFrom_reg_other {r : RegNum} (h0 : r ≠ 0) (h2 : r ≠ 2) : (State.resetFrom c x ram).reg r = x[r.toNat]'r.isLt := by
  have h0' : 0 ≠ r.toNat := fun h => h0 (BitVec.eq_of_toNat_eq h.symm)
  have h2' : 2 ≠ r.toNat := fun h => h2 (BitVec.eq_of_toNat_eq h.symm)
  rw [State.reg, if_neg h0]
  exact (Vector.getElem_set_ne (by omega) r.isLt h2').trans (Vector.getElem_set_ne (by omega) r.isLt h0')

/-- Every CSR but the identity constants is 0. -/
theorem resetFrom_csr {d : Csr} (h : d ∉ [Csr.mvendorid, .marchid, .mimpid, .mhartid]) : (State.resetFrom c x ram).csr d = 0 := by
  cases d with
  | mvendorid | marchid | mimpid | mhartid => simp at h
  | mstatus | mie | mtvec | mscratch | mepc | mcause | mtval | mip | timecmpl | timecmph | cyclel | timel | cycleh | timeh => rfl

theorem resetFrom_inv (hwf : ram.wf) (hrange : ∀ cell ∈ ram, c.dramBase.toNat ≤ cell.1 ∧ cell.1 < c.dramBase.toNat + c.dramSize) :
    (State.resetFrom c x ram).Inv := ⟨hwf, hrange, rfl, resetFrom_regs_zero c x ram⟩

end Reset

/-- Settles O58: x0 and x2 are written over the given registers, and everything else is a constant. -/
theorem resetValues : Obligations.ResetValues := fun c x m =>
  ⟨rfl, State.reg_zero _, resetFrom_reg_two c x m, fun _ => resetFrom_reg_other c x m, rfl, rfl, rfl, rfl, fun _ => resetFrom_csr c x m,
    rfl, rfl, rfl⟩

/-- Settles O57: reset clears the signal and x0, and takes RAM as it is given; `State.reset` is given an empty one. -/
theorem resetHasInv : Obligations.ResetHasInv :=
  ⟨resetFrom_inv defaultConfig defaultRegs [] ⟨.nil, nofun⟩ nofun, resetFrom_inv⟩

section CsrMap

/-- Looking up a key finds every entry of a list without repeated keys. -/
theorem lookup_eq_some_iff_mem {α β : Type} [BEq α] [LawfulBEq α] {l : List (α × β)} (h : (l.map Prod.fst).Nodup) (k : α) (v : β) :
    l.lookup k = some v ↔ (k, v) ∈ l := by
  induction l with
  | nil => simp
  | cons entry l ih =>
    obtain ⟨k', v'⟩ := entry
    obtain ⟨hfresh, hnodup⟩ := List.nodup_cons.1 h
    rw [List.lookup_cons, List.mem_cons, Prod.mk.injEq]
    by_cases hk : k = k'
    · subst hk
      have hother : (k, v) ∉ l := fun hmem => hfresh (List.mem_map.2 ⟨(k, v), hmem, rfl⟩)
      simp [hother, eq_comm]
    · rw [beq_false_of_ne hk]
      simp [hk, ih hnodup]

end CsrMap

end Sys2Proof.Machine

namespace Sys2Proof.Laws

/-- Settles O37: the default map gives no number twice. (The model's map is `Machine.defaultCsrMap`.) -/
theorem defaultCsrMap : Obligations.DefaultCsrMap := by
  refine ⟨Machine.lookup_eq_some_iff_mem (by decide), fun c => ?_⟩
  cases c <;> decide

end Sys2Proof.Laws

/-! PROOFS. The host's loader and its runs (spec/70_reset_and_hazards.md R611, R630, R635). -/

namespace Sys2Proof.Machine

section Loader

/-- What a load of `image` from address `n` on leaves of RAM in `t`. -/
def Loads (image : List Byte) (n : Nat) (s t : State) : Prop :=
  (∀ (k : Nat) (h : k < image.length), t.byteAt (n + k) = image[k]) ∧
  (∀ b, b < n ∨ n + image.length ≤ b → t.byteAt b = s.byteAt b) ∧ t = { s with mem := t.mem }

/-- One byte in RAM (R92). -/
theorem byteAt_ramWrite_one (s : State) (n : Nat) (byte : Byte) (b : Nat) :
    State.byteAt { s with mem := ramWrite s.mem n 1 byte.toNat } b = if b = n then byte else s.byteAt b := by
  refine (memByte_ramWrite s.mem n 1 byte.toNat b).trans ?_
  by_cases hb : b = n
  · rw [if_pos (by omega), if_pos hb, hb, Nat.sub_self, Nat.pow_zero, Nat.div_one, BitVec.ofNat_toNat, BitVec.setWidth_eq]
  · rw [if_neg (by omega), if_neg hb]
    rfl

/-- In a valid configuration the addresses of RAM are its own: none wraps around, and none lies in the UART window (R11). -/
theorem inRam_ofNat {c : Config} (hvalid : c.Valid) {n : Nat} (hbase : c.dramBase.toNat ≤ n) (hend : n < c.dramBase.toNat + c.dramSize) :
    (BitVec.ofNat 32 n).toNat = n ∧ InRam c (BitVec.ofNat 32 n) 1 := by
  obtain ⟨-, hwrap, hdisjoint⟩ := hvalid
  have haddr : (BitVec.ofNat 32 n).toNat = n := by
    rw [BitVec.toNat_ofNat]
    omega
  refine ⟨haddr, ?_⟩
  unfold InRam
  rw [haddr]
  omega

/-- By induction on the image: its first byte is stored, and the rest does not reach it again. -/
theorem hostLoadFrom_loads (image : List Byte) (n : Nat) (s : State) (hvalid : s.cfg.Valid) (hbase : s.cfg.dramBase.toNat ≤ n)
    (hend : n + image.length ≤ s.cfg.dramBase.toNat + s.cfg.dramSize) :
    ∃ t, hostLoadFrom image (BitVec.ofNat 32 n) s = .next t ∧ Loads image n s t := by
  induction image generalizing n s with
  | nil => exact ⟨s, rfl, nofun, fun _ _ => rfl, rfl⟩
  | cons byte image ih =>
    rw [List.length_cons] at hend
    obtain ⟨haddr, hram⟩ := inRam_ofNat hvalid hbase (by omega)
    obtain ⟨t, hload, hbytes, hothers, hframe⟩ :=
      ih (n + 1) { s with mem := ramWrite s.mem n 1 byte.toNat } hvalid (by dsimp only; omega) (by dsimp only; omega)
    refine ⟨t, ?_, fun k hk => ?_, fun b hb => ?_, hframe⟩
    · rw [BitVec.ofNat_add n 1] at hload
      rw [hostLoadFrom_cons hram, haddr]
      exact hload
    · cases k with
      | zero =>
        rw [Nat.add_zero, hothers n (by omega), byteAt_ramWrite_one, if_pos rfl]
        rfl
      | succ k =>
        rw [← Nat.add_assoc, Nat.add_right_comm]
        exact hbytes k _
    · rw [List.length_cons] at hb
      rw [hothers b (by omega), byteAt_ramWrite_one, if_neg (by omega)]

end Loader

/-- Settles O59: RAM lies wholly below 2^32 and apart from the UART window, so each byte of an image that fits is a store to RAM. -/
theorem loaderPlacesImage : Obligations.LoaderPlacesImage := by
  refine fun image s hvalid => ⟨fun hfits => ?_, hostLoad_too_long⟩
  obtain ⟨t, hload, hloads⟩ := hostLoadFrom_loads image s.cfg.dramBase.toNat s hvalid le_rfl (by omega)
  rw [BitVec.ofNat_toNat, BitVec.setWidth_eq] at hload
  exact ⟨t, (if_pos hfits).trans hload, hloads⟩

section HostRun

variable {s t : State} {cont : State → Bool}

/-- The condition holds in each of the first `k` states of the run from `s`. -/
def HeldFor (cont : State → Bool) (s : State) (k : Nat) : Prop := ∀ j, j < k → ∃ u : State, Sys2Proof.core.run j s = .next u ∧ cont u = true

theorem heldFor_succ (h : cont s = true) (hs : step s = .next t) {k : Nat} (hk : HeldFor cont t k) : HeldFor cont s (k + 1) := by
  intro j hj
  cases j with
  | zero => exact ⟨s, rfl, h⟩
  | succ j =>
    rw [core_run_of_next hs]
    exact hk j (by omega)

/-- The three ends of a run (R635). -/
theorem hostRun_ends (cont : State → Bool) (bound : Nat) (s : State) :
    (∃ f k, hostRun cont bound s = .fatal f ∧ k < bound ∧ Sys2Proof.core.run (k + 1) s = .fault f ∧ HeldFor cont s (k + 1)) ∨
    (∃ (t : State) (k : Nat), hostRun cont bound s = .left t ∧ cont t = false ∧ k < bound ∧ Sys2Proof.core.run k s = .next t ∧
      HeldFor cont s k) ∨
    (∃ t : State, hostRun cont bound s = .stopped t ∧ Sys2Proof.core.run bound s = .next t ∧ HeldFor cont s bound) := by
  induction bound generalizing s with
  | zero => exact .inr (.inr ⟨s, rfl, rfl, nofun⟩)
  | succ bound ih =>
    cases hcont : cont s with
    | false => exact .inr (.inl ⟨s, 0, hostRun_left hcont bound, hcont, by omega, rfl, nofun⟩)
    | true =>
      cases hstep : step s with
      | refused r => exact absurd hstep (step_ne_refused s r)
      | fault f =>
        refine .inl ⟨f, 0, hostRun_of_fault hcont hstep bound, by omega, core_run_of_fault hstep 0, fun j hj => ?_⟩
        obtain rfl : j = 0 := by omega
        exact ⟨s, rfl, hcont⟩
      | next t =>
        rw [hostRun_of_next hcont hstep]
        obtain ⟨f, k, hend, hk, hrun, hheld⟩ | ⟨u, k, hend, hleft, hk, hrun, hheld⟩ | ⟨u, hend, hrun, hheld⟩ := ih t
        · exact .inl ⟨f, k + 1, hend, by omega, (core_run_of_next hstep _).trans hrun, heldFor_succ hcont hstep hheld⟩
        · exact .inr (.inl ⟨u, k + 1, hend, hleft, by omega, (core_run_of_next hstep _).trans hrun, heldFor_succ hcont hstep hheld⟩)
        · exact .inr (.inr ⟨u, hend, (core_run_of_next hstep _).trans hrun, heldFor_succ hcont hstep hheld⟩)

end HostRun

/-- Settles O60, by induction on the bound: the first step of the run ends it, or the rest of the run does. -/
theorem runEndsInThreeWays : Obligations.RunEndsInThreeWays :=
  ⟨hostRun_ends, fun s => by simp [continueInDram]⟩

end Sys2Proof.Machine
